-- ==== Sys2Proof/Word.lean ====
section
/-! DEFINITION. The word types of the framer (00_scope.md R11, 30_encoding.md R45, R47). -/

namespace Sys2Proof

/-- A byte: a buffer byte, a data byte, a slave address. -/
abbrev Byte := BitVec 8

/-- A 16-bit word: a command, a CRC, a length, the data of a response. -/
abbrev Word := BitVec 16

/-- A response word, 20 bits (30_encoding.md R47). -/
abbrev Resp := BitVec 20

end Sys2Proof
end

