-- ==== Sys2Proof/Syntax.lean ====
section
/-! DEFINITION. The seventeen commands, one constructor per row of the opcode table
(30_encoding.md R45, R46, R48). -/

namespace Sys2Proof

/-- The three forms of the ARG byte (R46). -/
inductive ArgForm where
  /-- a data byte, any value -/
  | d8
  /-- a slave address, any value, not range-checked -/
  | a8
  /-- must be zero -/
  | z8
  deriving DecidableEq, Repr

/-- A command. A z8 command has no operand (R52): its ARG byte is zero, and a word with another
ARG byte is a reserved encoding, not a command (R50). -/
inductive Instr where
  | nop
  | crcInit
  | crcByte (d : Byte)
  | crcRead
  | encStart (a : Byte)
  | encByte (d : Byte)
  | encFinish
  | decStart
  | decByte (d : Byte)
  | decFinish
  | decTimeout
  | rdByte
  | rdLen
  | rdAddr
  | rdStatus
  | clrStatus
  | abort
  deriving DecidableEq, Repr

end Sys2Proof
end

