-- ==== Sys2Proof/Decode.lean ====
section
/-! DEFINITION. Decoding and encoding of command words (30_encoding.md R45 to R51). -/

namespace Sys2Proof

/-- Why a word is a reserved encoding (R50). -/
inductive Reject where
  /-- `OP` is not in the opcode map. -/
  | reservedOpcode (op : Byte)
  /-- `OP` is a z8 command's and `ARG` is not zero. -/
  | nonzeroArg (op arg : Byte)
  deriving DecidableEq, Repr

/-- `OP`, bits 15:8 (R45). -/
def opField (w : Word) : Byte := w.extractLsb' 8 8

/-- `ARG`, bits 7:0 (R45). -/
def argField (w : Word) : Byte := w.extractLsb' 0 8

/-- `CMD = {OP, ARG}` (R45). -/
def cmdWord (op arg : Byte) : Word := op ++ arg

/-- A z8 command: `ARG` must be zero (R46, R50). -/
def z8Command (op arg : Byte) (i : Instr) : Except Reject Instr :=
  if arg = 0 then .ok i else .error (.nonzeroArg op arg)

/-- The command a word stands for, or why it is reserved: the opcode is looked up first, then ARG is
checked (R48, R50, R51). -/
def decode (w : Word) : Except Reject Instr :=
  let op := opField w
  let arg := argField w
  match op.toNat with
  | 0x00 => z8Command op arg .nop
  | 0x01 => z8Command op arg .crcInit
  | 0x02 => .ok (.crcByte arg)
  | 0x03 => z8Command op arg .crcRead
  | 0x10 => .ok (.encStart arg)
  | 0x11 => .ok (.encByte arg)
  | 0x12 => z8Command op arg .encFinish
  | 0x20 => z8Command op arg .decStart
  | 0x21 => .ok (.decByte arg)
  | 0x22 => z8Command op arg .decFinish
  | 0x23 => z8Command op arg .decTimeout
  | 0x30 => z8Command op arg .rdByte
  | 0x31 => z8Command op arg .rdLen
  | 0x32 => z8Command op arg .rdAddr
  | 0x33 => z8Command op arg .rdStatus
  | 0x3E => z8Command op arg .clrStatus
  | 0x3F => z8Command op arg .abort
  | _ => .error (.reservedOpcode op)

/-- The opcode of a command (R48). -/
def opcodeOf (i : Instr) : Byte :=
  match i with
  | .nop => 0x00
  | .crcInit => 0x01
  | .crcByte _ => 0x02
  | .crcRead => 0x03
  | .encStart _ => 0x10
  | .encByte _ => 0x11
  | .encFinish => 0x12
  | .decStart => 0x20
  | .decByte _ => 0x21
  | .decFinish => 0x22
  | .decTimeout => 0x23
  | .rdByte => 0x30
  | .rdLen => 0x31
  | .rdAddr => 0x32
  | .rdStatus => 0x33
  | .clrStatus => 0x3E
  | .abort => 0x3F

/-- The form of a command's ARG byte (R46, R48). -/
def argFormOf (i : Instr) : ArgForm :=
  match i with
  | .nop => .z8
  | .crcInit => .z8
  | .crcByte _ => .d8
  | .crcRead => .z8
  | .encStart _ => .a8
  | .encByte _ => .d8
  | .encFinish => .z8
  | .decStart => .z8
  | .decByte _ => .d8
  | .decFinish => .z8
  | .decTimeout => .z8
  | .rdByte => .z8
  | .rdLen => .z8
  | .rdAddr => .z8
  | .rdStatus => .z8
  | .clrStatus => .z8
  | .abort => .z8

/-- The ARG byte of a command: its operand, or zero for a z8 command (R46, R52). -/
def argOf (i : Instr) : Byte :=
  match i with
  | .nop => 0
  | .crcInit => 0
  | .crcByte d => d
  | .crcRead => 0
  | .encStart a => a
  | .encByte d => d
  | .encFinish => 0
  | .decStart => 0
  | .decByte d => d
  | .decFinish => 0
  | .decTimeout => 0
  | .rdByte => 0
  | .rdLen => 0
  | .rdAddr => 0
  | .rdStatus => 0
  | .clrStatus => 0
  | .abort => 0

/-- The word of a command (R45, R48). -/
def encode (i : Instr) : Word := cmdWord (opcodeOf i) (argOf i)

/-- The word whose low `nbits` bits are those of `w`, the bits above them zero. -/
def tableWord (nbits w : Nat) : Word := BitVec.ofNat 16 (w % 2 ^ nbits)

/-- The instruction the decoder reads from a word numbered as `spec/opcode_table.json` numbers it. -/
def decodeTableWord (nbits w : Nat) : Option Instr := (decode (tableWord nbits w)).toOption

end Sys2Proof
end

