-- ==== Sys2Proof/Config.lean ====
section
/-! DEFINITION. What an implementation of the framer fixes (00_scope.md R7). -/

namespace Sys2Proof

/-- The one parameter the spec leaves open: `MAX_ADU`, the capacity of the frame buffer in bytes
(R7, 93_implementation_defined.md I8). -/
structure Config where
  /-- `MAX_ADU`. -/
  maxAdu : Nat
  deriving DecidableEq, Repr

/-- The default of R7, `MAX_ADU = 256`. -/
def Config.default : Config := { maxAdu := 256 }

end Sys2Proof
end

