-- ==== Sys2Proof/Machine/State.lean ====
section
/-! DEFINITION. The state of the framer (10_state.md R15 to R30), the reasons a step can stop, and the
state after reset. -/

namespace Sys2Proof.Machine

/-- `MODE` (R17). Values 5 to 7 are never taken, so an enumeration is exact
(93_implementation_defined.md I4). -/
inductive Mode where
  /-- IDLE: no frame is open and no result is readable -/
  | idle
  /-- ENC_OPEN: an ADU is being built -/
  | encOpen
  /-- ENC_DONE: an ADU is complete with its CRC and readable -/
  | encDone
  /-- DEC_OPEN: received bytes are being appended -/
  | decOpen
  /-- DEC_DONE: a received ADU passed its checks; address and PDU are readable -/
  | decDone
  deriving DecidableEq, Repr

/-- A result code (R23). Codes 0x8 to 0xE are never produced, so an enumeration of nine is exact
(93_implementation_defined.md I3). -/
inductive Code where
  | ok
  | frameCrc
  | frameLength
  | timeout
  | encLength
  | illegalCommand
  | illegalSequence
  | empty
  /-- NONE: no verdict, used in `FRAME` only -/
  | noVerdict
  deriving DecidableEq, Repr

/-- What comes in at the framer's port: a command of the host (30_encoding.md R45) or the reset event
(70_reset_and_hazards.md R92). -/
inductive Input where
  | cmd (w : Word)
  | reset
  deriving DecidableEq, Repr

/-- The contents of `BUF` (20_memory.md R31): the bytes written so far, each with its index, indices
strictly rising. A byte that nothing has written has no value (DESIGN CHOICE, safe, log 2). -/
abbrev Memory := List Host.Cell

/-- The canonical form of a memory: indices strictly rising. -/
abbrev Memory.wf (m : Memory) : Prop := m.Pairwise (fun x y => x.1 < y.1)

/-- The state: the nine elements of R15, and three fields of the model's own (`config`, `inputs`,
`responses`). -/
structure State where
  /-- The model's own: the parameter `MAX_ADU`, fixed for the life of the block (R7, R15; DESIGN CHOICE,
  safe, log 1). -/
  config : Config
  /-- `MODE` (R17). -/
  mode : Mode
  /-- `LEN`, the number of bytes held in `BUF` for the current frame (R19). -/
  len : Word
  /-- `RDPTR`, the index of the next byte RD_BYTE returns (R20). -/
  rdptr : Word
  /-- `OVF`, a received byte was dropped because `BUF` was full (R21). -/
  ovf : Bool
  /-- `CRC`, the CRC accumulator (R22). -/
  crc : Word
  /-- `LAST`, the result code of the most recent command that records one (R24). -/
  last : Code
  /-- `STICKY`, an error code has been recorded since the last clear (R25). -/
  sticky : Bool
  /-- `FRAME`, the verdict of the current or most recent frame (R26). -/
  frame : Code
  /-- `BUF`, the frame buffer (20_memory.md R31). -/
  buf : Memory
  /-- The model's own: what the host and the platform will still give the framer, oldest first
  (20_memory.md R41; DESIGN CHOICE, safe, log 3). -/
  inputs : List Input
  /-- The model's own: the responses given so far, oldest first, the observation of
  70_reset_and_hazards.md R94 (DESIGN CHOICE, safe, log 4). -/
  responses : List Resp
  deriving DecidableEq, Repr

/-- The reasons a step can stop with a fault. The framer has no trap (60_exceptions.md R78); both stand
for accesses that the spec says no command makes, and no run from reset reaches either. -/
inductive Fault where
  /-- An access to a `BUF` index at or above `MAX_ADU`, which does not exist (20_memory.md R40). Raised by
  `bufRead` and `bufWrite`. Safe (log 5). -/
  | bufNoSuchIndex (index : Nat)
  /-- A read of a `BUF` byte that nothing has written since reset, whose contents are unspecified
  (20_memory.md R32). Raised by `bufRead`. Safe (log 2). -/
  | bufUnwritten (index : Nat)
  deriving DecidableEq, Repr

/-- The reasons a step can be refused. -/
inductive Refusal where
  /-- A command without a meaning in the model. Raised by no arm of `exec`: every command has its
  meaning. Safe. -/
  | notModelled (mnemonic : String)
  deriving DecidableEq, Repr

/-- What a meaning or a step answers. -/
abbrev Result := Host.Outcome State Fault Refusal

/-- The state after reset of a framer with the given parameter (R30, 70_reset_and_hazards.md R92). -/
def State.resetWith (c : Config) : State where
  config := c
  mode := .idle
  len := 0
  rdptr := 0
  ovf := false
  crc := 0xFFFF
  last := .ok
  sticky := false
  frame := .noVerdict
  buf := []
  inputs := []
  responses := []

/-- The state after reset, with the default parameter `MAX_ADU = 256` (R7, R30). -/
def State.reset : State := State.resetWith Config.default

end Sys2Proof.Machine
end

