-- ==== Sys2Proof/Machine/Flags.lean ====
section
/-! DEFINITION. The numbers of modes and result codes, which codes are errors, the STATUS view and the
response word (10_state.md R17, R23, R27; 30_encoding.md R47). -/

namespace Sys2Proof.Machine

/-- The value of `MODE` (R17). -/
def modeBits (m : Mode) : BitVec 3 :=
  match m with
  | .idle => 0
  | .encOpen => 1
  | .encDone => 2
  | .decOpen => 3
  | .decDone => 4

/-- The value of a result code (R23). -/
def codeBits (c : Code) : BitVec 4 :=
  match c with
  | .ok => 0x0
  | .frameCrc => 0x1
  | .frameLength => 0x2
  | .timeout => 0x3
  | .encLength => 0x4
  | .illegalCommand => 0x5
  | .illegalSequence => 0x6
  | .empty => 0x7
  | .noVerdict => 0xF

/-- The column "error?" of R23: codes 0x1 to 0x6. -/
def isError (c : Code) : Bool :=
  match c with
  | .ok => false
  | .frameCrc => true
  | .frameLength => true
  | .timeout => true
  | .encLength => true
  | .illegalCommand => true
  | .illegalSequence => true
  | .empty => false
  | .noVerdict => false

/-- `STATUS = {000, OVF, FRAME, STICKY, MODE, LAST}` (R27). -/
def statusWord (s : State) : Word :=
  0#3 ++ BitVec.ofBool s.ovf ++ codeBits s.frame ++ BitVec.ofBool s.sticky ++ modeBits s.mode ++
    codeBits s.last

/-- `RESP = {CODE, DATA}` (R47). -/
def respWord (code : Code) (data : Word) : Resp := codeBits code ++ data

/-- The CODE field of a response, bits 19:16 (R47). -/
def respCode (r : Resp) : BitVec 4 := r.extractLsb' 16 4

/-- The DATA field of a response, bits 15:0 (R47). -/
def respData (r : Resp) : Word := r.extractLsb' 0 16

end Sys2Proof.Machine
end

