-- ==== Sys2Proof/Machine/Operands.lean ====
section
/-! DEFINITION. Bytes and words (00_scope.md R11): the only operand forms are the ARG byte, which the
decoder hands over as it is (30_encoding.md R46), and these. -/

namespace Sys2Proof.Machine

/-- `zext_16(b)` (R11). -/
def zext16 (b : Byte) : Word := b.setWidth 16

/-- `lo8(v) = v[7:0]` (R11). -/
def lo8 (v : Word) : Byte := v.extractLsb' 0 8

/-- `hi8(v) = v[15:8]` (R11). -/
def hi8 (v : Word) : Byte := v.extractLsb' 8 8

/-- The 16-bit value whose wire bytes are `lo` and then `hi`: `{hi, lo}` (20_memory.md R34). -/
def wireWord (lo hi : Byte) : Word := hi ++ lo

/-- The two bytes of a CRC in wire order, low byte first (20_memory.md R34). -/
def wireBytes (c : Word) : List Byte := [lo8 c, hi8 c]

end Sys2Proof.Machine
end

