-- ==== Sys2Proof/Machine/Ops.lean ====
section
/-! DEFINITION. The operations the commands share: the buffer (20_memory.md R31 to R40), the response and
the two error outcomes (60_exceptions.md R79, R80), and the mode check (10_state.md R18).

The framer takes no exception and returns from none (60_exceptions.md R78, R87); `fail` and `frameFail`
are what it has in their place. -/

namespace Sys2Proof.Machine

/-! ## The buffer -/

/-- The byte a memory lists at an index, if it lists one. -/
def Memory.read : Memory → Nat → Option Byte
  | [], _ => none
  | c :: m, i => if c.1 = i then some c.2 else Memory.read m i

/-- The memory with one byte written, its indices still rising. -/
def Memory.write : Memory → Nat → Byte → Memory
  | [], i, b => [(i, b)]
  | c :: m, i, b =>
    if i < c.1 then (i, b) :: c :: m
    else if i = c.1 then (i, b) :: m
    else c :: Memory.write m i b

/-- `BUF[i]` (00_scope.md R12, 20_memory.md R31). Index `MAX_ADU` and above does not exist (R40; DESIGN
CHOICE, safe, log 5), and a byte that nothing has written has no value (R32; DESIGN CHOICE, safe, log 2). -/
def bufRead (s : State) (i : Nat) : Except Fault Byte :=
  if i < s.config.maxAdu then
    match s.buf.read i with
    | some b => .ok b
    | none => .error (.bufUnwritten i)
  else .error (.bufNoSuchIndex i)

/-- `BUF[i] <- b` (00_scope.md R12, 20_memory.md R31, R40; DESIGN CHOICE, safe, log 5). -/
def bufWrite (s : State) (i : Nat) (b : Byte) : Except Fault State :=
  if i < s.config.maxAdu then .ok { s with buf := s.buf.write i b }
  else .error (.bufNoSuchIndex i)

/-- The bytes `BUF[i..i+n)`, lowest index first. -/
def bufBytes (s : State) : Nat → Nat → Except Fault (List Byte)
  | _, 0 => .ok []
  | i, n + 1 =>
    match bufRead s i with
    | .error f => .error f
    | .ok b =>
      match bufBytes s (i + 1) n with
      | .error f => .error f
      | .ok bs => .ok (b :: bs)

/-- The index at which the next byte of the open frame is written: `LEN` (20_memory.md R31). -/
def appendIndex (s : State) : Nat := s.len.toNat

/-- Go on with the value, or stop with the fault. -/
def orFault {α : Type} (x : Except Fault α) (k : α → Result) : Result :=
  match x with
  | .ok a => k a
  | .error f => .fault f

/-! ## The response and the outcomes of a command -/

/-- `respond(code, data)` (30_encoding.md R47): the response joins the observation. -/
def respond (code : Code) (data : Word) (s : State) : State :=
  { s with responses := s.responses ++ [respWord code data] }

/-- `LAST <- OK; respond(OK, data)`, the end of every successful command but NOP and RD_STATUS
(10_state.md R24). -/
def succeed (data : Word) (s : State) : State := respond .ok data { s with last := .ok }

/-- `fail(code)` (60_exceptions.md R79): an outcome that does not end the frame. -/
def fail (code : Code) (s : State) : State :=
  respond code 0 { s with last := code, sticky := s.sticky || isError code }

/-- `frame_fail(code)` (60_exceptions.md R80): an error that ends the frame. -/
def frameFail (code : Code) (s : State) : State :=
  respond code 0
    { s with mode := .idle, len := 0, rdptr := 0, ovf := false, frame := code, last := code,
             sticky := true }

/-- A reserved encoding executes `fail(ILLEGAL_COMMAND)` and nothing else (60_exceptions.md R81). -/
def execReserved (s : State) : State := fail .illegalCommand s

/-! ## The mode check -/

/-- The commands legal in each mode (10_state.md R18). -/
def legalIn (i : Instr) (m : Mode) : Bool :=
  match i with
  | .nop => true
  | .crcInit => true
  | .crcByte _ => true
  | .crcRead => true
  | .encStart _ => true
  | .encByte _ => m == .encOpen
  | .encFinish => m == .encOpen
  | .decStart => true
  | .decByte _ => m == .decOpen
  | .decFinish => m == .decOpen
  | .decTimeout => m == .decOpen
  | .rdByte => m == .encDone || m == .decDone
  | .rdLen => true
  | .rdAddr => m == .decDone
  | .rdStatus => true
  | .clrStatus => true
  | .abort => true

/-- The command's own rule when it is legal in the current mode, else `fail(ILLEGAL_SEQUENCE)` and nothing
else (60_exceptions.md R82). -/
def whenLegal (i : Instr) (s : State) (own : Result) : Result :=
  if legalIn i s.mode then own else .next (fail .illegalSequence s)

/-! ## The input port -/

/-- What the framer finds at its port. -/
inductive Pending where
  /-- no input: the framer waits (70_reset_and_hazards.md R92) -/
  | waiting
  /-- the reset event, and the state without it -/
  | reset (s : State)
  /-- a command word, and the state without it -/
  | command (w : Word) (s : State)
  deriving DecidableEq, Repr

/-- Take the oldest input (20_memory.md R41). -/
def takeInput (s : State) : Pending :=
  match s.inputs with
  | [] => .waiting
  | .reset :: rest => .reset { s with inputs := rest }
  | .cmd w :: rest => .command w { s with inputs := rest }

/-- The reset event: every element of the state takes its reset value (70_reset_and_hazards.md R92). The
parameter, the inputs still to come and the observation are not the framer's state and stay (DESIGN CHOICE,
safe, log 6). -/
def applyReset (s : State) : State :=
  { State.resetWith s.config with inputs := s.inputs, responses := s.responses }

end Sys2Proof.Machine
end

