-- ==== Sys2Proof/Machine/Control.lean ====
section
/-! DEFINITION. The readout and control commands (43_readout_control.md). -/

namespace Sys2Proof.Machine

/-- NOP (R71): no state is written, not even `LAST`. -/
def execNop (s : State) : Result := .next (respond .ok 0 s)

/-- The end of the readable region (R72): the whole ADU in ENC_DONE, the PDU without the CRC bytes in
DEC_DONE; nothing is readable in the other modes. -/
def readEnd (s : State) : Word :=
  match s.mode with
  | .idle => 0
  | .encOpen => 0
  | .encDone => s.len
  | .decOpen => 0
  | .decDone => s.len - 2

/-- RD_BYTE (R72). -/
def execRdByte (s : State) : Result :=
  whenLegal .rdByte s <|
    if s.rdptr < readEnd s then
      orFault (bufRead s s.rdptr.toNat) fun b =>
        .next (succeed (zext16 b) { s with rdptr := s.rdptr + 1 })
    else .next (fail .empty s)

/-- The length RD_LEN returns (R73). -/
def shownLength (s : State) : Word :=
  match s.mode with
  | .idle => 0
  | .encOpen => s.len
  | .encDone => s.len
  | .decOpen => s.len
  | .decDone => s.len - 3

/-- RD_LEN (R73). -/
def execRdLen (s : State) : Result := .next (succeed (shownLength s) s)

/-- RD_ADDR (R74). -/
def execRdAddr (s : State) : Result :=
  whenLegal .rdAddr s <|
    orFault (bufRead s 0) fun b => .next (succeed (zext16 b) s)

/-- RD_STATUS (R75): no state is written, not even `LAST`. -/
def execRdStatus (s : State) : Result := .next (respond .ok (statusWord s) s)

/-- CLR_STATUS (R76). -/
def execClrStatus (s : State) : Result := .next (succeed 0 { s with sticky := false })

/-- ABORT (R77). -/
def execAbort (s : State) : Result :=
  .next (succeed 0
    { s with mode := .idle, len := 0, rdptr := 0, ovf := false, frame := .noVerdict })

end Sys2Proof.Machine
end

