-- ==== Sys2Proof/Machine/CrcEngine.lean ====
section
/-! DEFINITION. The CRC engine commands (40_crc.md). All are legal in every mode. -/

namespace Sys2Proof.Machine

/-- CRC_INIT (R59). -/
def execCrcInit (s : State) : Result := .next (succeed 0xFFFF { s with crc := crcInitial })

/-- CRC_BYTE d (R60). -/
def execCrcByte (d : Byte) (s : State) : Result :=
  .next (succeed (crcStep s.crc d) { s with crc := crcStep s.crc d })

/-- CRC_READ (R61). -/
def execCrcRead (s : State) : Result := .next (succeed s.crc s)

end Sys2Proof.Machine
end

