-- ==== Sys2Proof/Machine/Decoder.lean ====
section
/-! DEFINITION. The frame decoder commands (42_decoder.md). -/

namespace Sys2Proof.Machine

/-- `MIN_ADU = 4`, the shortest frame the decoder accepts (00_scope.md R8). -/
def minAdu : Nat := 4

/-- DEC_START (R66). -/
def execDecStart (s : State) : Result :=
  .next (succeed 0
    { s with len := 0, rdptr := 0, ovf := false, mode := .decOpen, frame := .noVerdict })

/-- DEC_BYTE d (R67): when the buffer is full the byte is dropped and the frame stays open. -/
def execDecByte (d : Byte) (s : State) : Result :=
  whenLegal (.decByte d) s <|
    if s.len.toNat = s.config.maxAdu then .next (fail .frameLength { s with ovf := true })
    else
      orFault (bufWrite s (appendIndex s) d) fun s' =>
        .next (succeed 0 { s' with len := s.len + 1 })

/-- DEC_FINISH (R68): OVF, then the length, then the CRC. -/
def execDecFinish (s : State) : Result :=
  whenLegal .decFinish s <|
    if s.ovf then .next (frameFail .frameLength s)
    else if s.len.toNat < minAdu then .next (frameFail .frameLength s)
    else
      orFault (bufBytes s 0 s.len.toNat) fun f =>
        if crcAccepts f then
          .next (succeed (s.len - 3)
            { s with crc := crc16 (crcBody f), rdptr := 1, mode := .decDone, frame := .ok })
        else .next (frameFail .frameCrc { s with crc := crc16 (crcBody f) })

/-- DEC_TIMEOUT (R69): TIMEOUT whatever `LEN` is. -/
def execDecTimeout (s : State) : Result :=
  whenLegal .decTimeout s <| .next (frameFail .timeout s)

end Sys2Proof.Machine
end

