-- ==== Sys2Proof/Machine/Encoder.lean ====
section
/-! DEFINITION. The frame encoder commands (41_encoder.md). -/

namespace Sys2Proof.Machine

/-- ENC_START a (R62). `LEN` becomes 1, as R62 says, not 0, as a sentence of 10_state.md R19 has it
(DEDUCED, unsafe, log 9). -/
def execEncStart (a : Byte) (s : State) : Result :=
  orFault (bufWrite s 0 a) fun s' =>
    .next (succeed 0
      { s' with len := 1, rdptr := 0, ovf := false, mode := .encOpen, frame := .noVerdict })

/-- ENC_BYTE d (R63): there must be room for d and the two CRC bytes. -/
def execEncByte (d : Byte) (s : State) : Result :=
  whenLegal (.encByte d) s <|
    if s.len.toNat + 2 = s.config.maxAdu then .next (frameFail .encLength s)
    else
      orFault (bufWrite s (appendIndex s) d) fun s' =>
        .next (succeed 0 { s' with len := s.len + 1 })

/-- ENC_FINISH (R64): the CRC covers the address byte and the PDU, and is appended low byte first. -/
def execEncFinish (s : State) : Result :=
  whenLegal .encFinish s <|
    if s.len.toNat < 2 then .next (frameFail .encLength s)
    else
      orFault (bufBytes s 0 s.len.toNat) fun f =>
        orFault (bufWrite s (appendIndex s) (lo8 (crc16 f))) fun s₁ =>
          orFault (bufWrite s₁ (appendIndex s + 1) (hi8 (crc16 f))) fun s₂ =>
            .next (succeed (crc16 f)
              { s₂ with len := s.len + 2, crc := crc16 f, rdptr := 0, mode := .encDone,
                        frame := .ok })

end Sys2Proof.Machine
end

