-- ==== Sys2Proof/Machine/Dispatch.lean ====
section
/-! DEFINITION. One arm per command. -/

namespace Sys2Proof.Machine

def exec (i : Instr) (s : State) : Host.Outcome State Fault Refusal :=
  match i with
  | .nop => Sys2Proof.Machine.execNop s
  | .crcInit => Sys2Proof.Machine.execCrcInit s
  | .crcByte d => Sys2Proof.Machine.execCrcByte d s
  | .crcRead => Sys2Proof.Machine.execCrcRead s
  | .encStart a => Sys2Proof.Machine.execEncStart a s
  | .encByte d => Sys2Proof.Machine.execEncByte d s
  | .encFinish => Sys2Proof.Machine.execEncFinish s
  | .decStart => Sys2Proof.Machine.execDecStart s
  | .decByte d => Sys2Proof.Machine.execDecByte d s
  | .decFinish => Sys2Proof.Machine.execDecFinish s
  | .decTimeout => Sys2Proof.Machine.execDecTimeout s
  | .rdByte => Sys2Proof.Machine.execRdByte s
  | .rdLen => Sys2Proof.Machine.execRdLen s
  | .rdAddr => Sys2Proof.Machine.execRdAddr s
  | .rdStatus => Sys2Proof.Machine.execRdStatus s
  | .clrStatus => Sys2Proof.Machine.execClrStatus s
  | .abort => Sys2Proof.Machine.execAbort s

end Sys2Proof.Machine
end

