-- ==== Sys2Proof/Machine/Step.lean ====
section
/-! DEFINITION. One step of the framer: it takes the oldest input and executes it (20_memory.md R37, R41;
30_encoding.md R51; 70_reset_and_hazards.md R92). -/

namespace Sys2Proof.Machine

/-- One step. With no input the framer waits and nothing changes (DESIGN CHOICE, safe, log 3). -/
def step (s : State) : Host.Outcome State Fault Refusal :=
  match takeInput s with
  | .waiting => .next s
  | .reset s' => .next (applyReset s')
  | .command w s' =>
    match decode w with
    | .ok i => exec i s'
    | .error _ => .next (execReserved s')

/-- The state in which the next step takes the command word `w`: the host issues it now, before
anything else it will issue (log 3). -/
def State.withFetchWord (s : State) (nbits w : Nat) : State :=
  { s with inputs := .cmd (tableWord nbits w) :: s.inputs }

end Sys2Proof.Machine
end

