-- ==== Sys2Proof/Machine/Assembler.lean ====
section
/-! DEFINITION. The assembler's text (30_encoding.md R52). It is notation for the host's programs; the framer
never sees it. What R52 leaves open of the text is the model's choice (DESIGN CHOICE, safe, log 10). -/

namespace Sys2Proof.Machine

/-- The mnemonic of a command, as R48 writes it. -/
def mnemonicText (i : Instr) : List Char :=
  match i with
  | .nop => ['N', 'O', 'P']
  | .crcInit => ['C', 'R', 'C', '_', 'I', 'N', 'I', 'T']
  | .crcByte _ => ['C', 'R', 'C', '_', 'B', 'Y', 'T', 'E']
  | .crcRead => ['C', 'R', 'C', '_', 'R', 'E', 'A', 'D']
  | .encStart _ => ['E', 'N', 'C', '_', 'S', 'T', 'A', 'R', 'T']
  | .encByte _ => ['E', 'N', 'C', '_', 'B', 'Y', 'T', 'E']
  | .encFinish => ['E', 'N', 'C', '_', 'F', 'I', 'N', 'I', 'S', 'H']
  | .decStart => ['D', 'E', 'C', '_', 'S', 'T', 'A', 'R', 'T']
  | .decByte _ => ['D', 'E', 'C', '_', 'B', 'Y', 'T', 'E']
  | .decFinish => ['D', 'E', 'C', '_', 'F', 'I', 'N', 'I', 'S', 'H']
  | .decTimeout => ['D', 'E', 'C', '_', 'T', 'I', 'M', 'E', 'O', 'U', 'T']
  | .rdByte => ['R', 'D', '_', 'B', 'Y', 'T', 'E']
  | .rdLen => ['R', 'D', '_', 'L', 'E', 'N']
  | .rdAddr => ['R', 'D', '_', 'A', 'D', 'D', 'R']
  | .rdStatus => ['R', 'D', '_', 'S', 'T', 'A', 'T', 'U', 'S']
  | .clrStatus => ['C', 'L', 'R', '_', 'S', 'T', 'A', 'T', 'U', 'S']
  | .abort => ['A', 'B', 'O', 'R', 'T']

/-- The digits of the listing, in the order of their values. -/
def hexDigits : List Char :=
  ['0', '1', '2', '3', '4', '5', '6', '7', '8', '9', 'A', 'B', 'C', 'D', 'E', 'F']

/-- The value of a digit in base 10 or 16; a hexadecimal letter may be small or capital. -/
def digitValue (base : Nat) (c : Char) : Option Nat :=
  let k := c.toNat
  let v :=
    if 48 ≤ k ∧ k ≤ 57 then k - 48
    else if 65 ≤ k ∧ k ≤ 70 then k - 55
    else if 97 ≤ k ∧ k ≤ 102 then k - 87
    else 16
  if v < base then some v else none

/-- The number a string of digits stands for, after the digits already read. -/
def digitsValue (base : Nat) : List Char → Nat → Option Nat
  | [], n => some n
  | c :: cs, n =>
    match digitValue base c with
    | some v => digitsValue base cs (n * base + v)
    | none => none

/-- A byte in hexadecimal with `0x`, or in decimal 0 to 255 (R52). -/
def parseByte (cs : List Char) : Option Byte :=
  let value :=
    match cs with
    | [] => none
    | '0' :: 'x' :: [] => none
    | '0' :: 'x' :: c :: ds => digitsValue 16 (c :: ds) 0
    | c :: ds => digitsValue 10 (c :: ds) 0
  match value with
  | some n => if n ≤ 255 then some (BitVec.ofNat 8 n) else none
  | none => none

/-- The words of a line, separated by blanks; the second list is the word being read, last character
first. -/
def wordsOf : List Char → List Char → List (List Char)
  | [], w => if w.isEmpty then [] else [w.reverse]
  | c :: cs, w =>
    if c = ' ' ∨ c = '\t' ∨ c = '\r' then
      if w.isEmpty then wordsOf cs [] else w.reverse :: wordsOf cs []
    else wordsOf cs (c :: w)

/-- The commands written without an operand (R52). -/
def z8Commands : List Instr :=
  [.nop, .crcInit, .crcRead, .encFinish, .decStart, .decFinish, .decTimeout, .rdByte, .rdLen, .rdAddr,
    .rdStatus, .clrStatus, .abort]

/-- The commands written with one operand (R52). -/
def operandCommands (b : Byte) : List Instr := [.crcByte b, .encStart b, .encByte b, .decByte b]

/-- What a line of the assembler's text holds. -/
inductive SourceLine where
  /-- nothing but blanks and a comment -/
  | blank
  | command (i : Instr)
  deriving DecidableEq, Repr

/-- Read one line: `;` starts a comment, then a mnemonic and, for d8 and a8 commands, one operand (R52).
`none` where the line is not of this form. -/
def parseLine (line : List Char) : Option SourceLine :=
  match wordsOf (line.takeWhile (· != ';')) [] with
  | [] => some .blank
  | [m] => (z8Commands.find? fun i => mnemonicText i == m).map .command
  | [m, x] =>
    match parseByte x with
    | some b => ((operandCommands b).find? fun i => mnemonicText i == m).map .command
    | none => none
  | _ => none

/-- `(OP << 8) | operand`, the assembled word (R52). -/
def assembledWord (op operand : Byte) : Word := (op.setWidth 16 <<< 8) ||| operand.setWidth 16

/-- The digit of a value below 16. -/
def hexDigit (n : Nat) : Char := hexDigits.getD n '0'

/-- Two hexadecimal digits. -/
def hexByte (b : Byte) : List Char := [hexDigit (b.toNat / 16), hexDigit (b.toNat % 16)]

/-- A command as it is written (R52). -/
def sourceText (i : Instr) : List Char :=
  match argFormOf i with
  | .z8 => mnemonicText i
  | .d8 => mnemonicText i ++ [' ', '0', 'x'] ++ hexByte (argOf i)
  | .a8 => mnemonicText i ++ [' ', '0', 'x'] ++ hexByte (argOf i)

/-- The line of a listing: the word in hexadecimal before the command (R52). -/
def listingLine (i : Instr) : List Char :=
  hexByte (opField (encode i)) ++ hexByte (argField (encode i)) ++ [' ', ' '] ++ sourceText i

end Sys2Proof.Machine
end

