-- ==== Sys2Proof/Machine/Codec.lean ====
section
/-! DEFINITION. The source's `encode` and `decode` (41_encoder.md R65, 42_decoder.md R70) and the
pseudo-commands (30_encoding.md R53). -/

namespace Sys2Proof.Machine

/-- `encode(a, p) = [a] ++ p ++ [lo8(c), hi8(c)]` with `c = crc16([a] ++ p)` (R65). -/
def aduEncode (a : Byte) (p : List Byte) : List Byte := (a :: p) ++ wireBytes (crc16 (a :: p))

/-- `decode(f) = (f[0], f[1..n-2))`, or the verdict of a frame that fails (R70). -/
def aduDecode (f : List Byte) : Except Code (Byte × List Byte) :=
  if f.length < minAdu then .error .frameLength
  else if crcAccepts f then .ok (f.getD 0 0, (crcBody f).drop 1)
  else .error .frameCrc

/-- `CRC_BLOCK b1, ..., bn` (R53). -/
def crcBlock (bs : List Byte) : List Instr := .crcInit :: bs.map .crcByte ++ [.crcRead]

/-- `ENC_FRAME a; p1, ..., pn` (R53). -/
def encFrame (a : Byte) (p : List Byte) : List Instr := .encStart a :: p.map .encByte ++ [.encFinish]

/-- `DEC_FRAME b1, ..., bn` (R53). -/
def decFrame (bs : List Byte) : List Instr := .decStart :: bs.map .decByte ++ [.decFinish]

/-- `READ_OUT n` (R53). -/
def readOut (n : Nat) : List Instr := List.replicate n .rdByte

/-- The host issues these commands, in this order. -/
def issue (cs : List Instr) : List Input := cs.map fun i => .cmd (encode i)

end Sys2Proof.Machine
end

