-- ==== Sys2Proof/WellFormed.lean ====
section
/-! DEFINITION. The checks of the spec on what is given to the framer: the parameter (00_scope.md R7),
a command word (30_encoding.md R48, R50) and a PDU (41_encoder.md R65).

Every term of `Instr` is a well-formed command, because R46 lets a data byte and a slave address
take any value and a z8 command has no operand; what can be ill-formed is a 16-bit word. -/

namespace Sys2Proof

/-- `143 <= MAX_ADU <= 65535` (R7). -/
def Config.wf (c : Config) : Bool := decide (143 ≤ c.maxAdu) && decide (c.maxAdu ≤ 65535)

/-- A row of the opcode map: a word is a command of the row when its bits under the mask are the
pattern (R48). -/
structure OpRow where
  mnemonic : String
  form : ArgForm
  pattern : Word
  mask : Word
  deriving DecidableEq, Repr

/-- A row of the opcode map; the mask is 0xFF00 for d8 and a8 commands and 0xFFFF for z8 commands
(R48). -/
def opRow (mnemonic : String) (form : ArgForm) (pattern : Word) : OpRow :=
  { mnemonic, form, pattern,
    mask := match form with
      | .z8 => 0xFFFF
      | .d8 => 0xFF00
      | .a8 => 0xFF00 }

/-- The opcode map of R48. -/
def opcodeMap : List OpRow :=
  [opRow "NOP" .z8 0x0000, opRow "CRC_INIT" .z8 0x0100, opRow "CRC_BYTE" .d8 0x0200,
    opRow "CRC_READ" .z8 0x0300] ++
  [opRow "ENC_START" .a8 0x1000, opRow "ENC_BYTE" .d8 0x1100, opRow "ENC_FINISH" .z8 0x1200] ++
  [opRow "DEC_START" .z8 0x2000, opRow "DEC_BYTE" .d8 0x2100, opRow "DEC_FINISH" .z8 0x2200,
    opRow "DEC_TIMEOUT" .z8 0x2300] ++
  [opRow "RD_BYTE" .z8 0x3000, opRow "RD_LEN" .z8 0x3100, opRow "RD_ADDR" .z8 0x3200,
    opRow "RD_STATUS" .z8 0x3300, opRow "CLR_STATUS" .z8 0x3E00, opRow "ABORT" .z8 0x3F00]

/-- The word is a command of this row. -/
def OpRow.matches (r : OpRow) (w : Word) : Bool := (w &&& r.mask) == r.pattern

/-- The word is a command of some row, so not a reserved encoding (R50). -/
def wordWf (w : Word) : Bool := opcodeMap.any (·.matches w)

/-- A PDU that can be framed: `1 <= |p| <= MAX_ADU - 3` (R65). -/
def pduWf (c : Config) (p : List Byte) : Bool :=
  decide (1 ≤ p.length) && decide (p.length + 3 ≤ c.maxAdu)

end Sys2Proof
end

