-- ==== Sys2Proof/Safety.lean ====
section
/-! DEFINITION. The terms claims about the framer use: what the buffer holds, the invariant of
10_state.md R28, the legal modes of R18, and which states the host cannot tell apart. -/

namespace Sys2Proof.Machine

/-- `BUF[0..LEN) = f` (00_scope.md R11, 20_memory.md R33). -/
abbrev State.Holds (s : State) (f : List Byte) : Prop :=
  f.length = s.len.toNat ∧ f.length ≤ s.config.maxAdu ∧ ∀ i < f.length, s.buf.read i = f[i]?

/-- The bytes `BUF[0..LEN)`; used where all of them have been written. -/
def State.held (s : State) : List Byte :=
  (List.range s.len.toNat).map fun i => (s.buf.read i).getD 0

/-- The line of R28 for IDLE. -/
abbrev State.IdleInv (s : State) : Prop :=
  s.len = 0 ∧ s.rdptr = 0 ∧ s.ovf = false ∧
    s.frame ∈ [Code.noVerdict, .frameCrc, .frameLength, .timeout, .encLength]

/-- The line of R28 for ENC_OPEN. -/
abbrev State.EncOpenInv (s : State) : Prop :=
  1 ≤ s.len.toNat ∧ s.len.toNat + 2 ≤ s.config.maxAdu ∧ s.rdptr = 0 ∧ s.ovf = false ∧
    s.frame = .noVerdict

/-- The line of R28 for ENC_DONE. -/
abbrev State.EncDoneInv (s : State) : Prop :=
  4 ≤ s.len.toNat ∧ s.len.toNat ≤ s.config.maxAdu ∧ s.rdptr.toNat ≤ s.len.toNat ∧ s.ovf = false ∧
    s.frame = .ok ∧ crcAccepts s.held = true

/-- The line of R28 for DEC_OPEN; `OVF` is set only when the buffer is full (R21). -/
abbrev State.DecOpenInv (s : State) : Prop :=
  s.len.toNat ≤ s.config.maxAdu ∧ s.rdptr = 0 ∧ s.frame = .noVerdict ∧
    (s.ovf = true → s.len.toNat = s.config.maxAdu)

/-- The line of R28 for DEC_DONE. -/
abbrev State.DecDoneInv (s : State) : Prop :=
  4 ≤ s.len.toNat ∧ s.len.toNat ≤ s.config.maxAdu ∧ 1 ≤ s.rdptr.toNat ∧
    s.rdptr.toNat + 2 ≤ s.len.toNat ∧ s.ovf = false ∧ s.frame = .ok ∧ crcAccepts s.held = true

/-- The invariant: the five lines of R28, with what they rest on: the parameter is in range (R7), the
buffer lists only existing indices in canonical form (20_memory.md R31, R40), every byte of the frame
has been written (R29), and `LAST` is never NONE (R24). -/
structure State.Inv (s : State) : Prop where
  config : s.config.wf = true
  canonical : s.buf.wf
  within : ∀ c ∈ s.buf, c.1 < s.config.maxAdu
  written : ∀ i < s.len.toNat, (s.buf.read i).isSome = true
  lastCode : s.last ≠ .noVerdict
  idle : s.mode = .idle → s.IdleInv
  encOpen : s.mode = .encOpen → s.EncOpenInv
  encDone : s.mode = .encDone → s.EncDoneInv
  decOpen : s.mode = .decOpen → s.DecOpenInv
  decDone : s.mode = .decDone → s.DecDoneInv

/-- The rows of R18: the modes in which a command is legal. -/
def legalModes (i : Instr) : List Mode :=
  match i with
  | .encByte _ => [.encOpen]
  | .encFinish => [.encOpen]
  | .decByte _ => [.decOpen]
  | .decFinish => [.decOpen]
  | .decTimeout => [.decOpen]
  | .rdByte => [.encDone, .decDone]
  | .rdAddr => [.decDone]
  | _ => [.idle, .encOpen, .encDone, .decOpen, .decDone]

/-- The state after `fail(code)` for an error code, written out (60_exceptions.md R79). -/
def afterError (code : Code) (s : State) : State :=
  { s with last := code, sticky := true, responses := s.responses ++ [respWord code 0] }

/-- The state after `frame_fail(code)`, written out (60_exceptions.md R80). -/
def afterFrameError (code : Code) (s : State) : State :=
  { s with mode := .idle, len := 0, rdptr := 0, ovf := false, frame := code, last := code,
           sticky := true, responses := s.responses ++ [respWord code 0] }

/-- With a nonzero ARG the opcode is a reserved encoding: ILLEGAL_COMMAND and no other effect
(30_encoding.md R50, 60_exceptions.md R81). -/
def NonzeroArgIsReserved (op : Byte) : Prop :=
  ∀ (arg : Byte) (s : State) (rest : List Input), arg ≠ 0 →
    s.inputs = .cmd (cmdWord op arg) :: rest →
    step s = .next (afterError .illegalCommand { s with inputs := rest })

/-- Outside these modes the command fails with ILLEGAL_SEQUENCE and no other effect
(60_exceptions.md R82). -/
def LegalOnlyIn (i : Instr) (modes : List Mode) : Prop :=
  ∀ s : State, s.mode ∉ modes → exec i s = .next (afterError .illegalSequence s)

/-- The indices of `BUF` a command writes (20_memory.md R31), with the index the meanings use. -/
def storedIndices (i : Instr) (s : State) : List Nat :=
  match i with
  | .encStart _ => [0]
  | .encByte _ =>
    if s.mode = .encOpen ∧ s.len.toNat + 2 ≠ s.config.maxAdu then [appendIndex s] else []
  | .encFinish =>
    if s.mode = .encOpen ∧ 2 ≤ s.len.toNat then [appendIndex s, appendIndex s + 1] else []
  | .decByte _ =>
    if s.mode = .decOpen ∧ s.len.toNat ≠ s.config.maxAdu then [appendIndex s] else []
  | _ => []

/-- The two states differ at most in bytes of `BUF` outside the current frame (10_state.md R29). -/
def SameBelowLen (s t : State) : Prop :=
  t = { s with buf := t.buf } ∧ ∀ i < s.len.toNat, t.buf.read i = s.buf.read i

/-- `n` responses OK with data 0. -/
def okResponses (n : Nat) : List Resp := List.replicate n (respWord .ok 0)

/-- The responses OK that return these bytes (43_readout_control.md R72). -/
def byteResponses (bs : List Byte) : List Resp := bs.map fun b => respWord .ok (zext16 b)

end Sys2Proof.Machine
end

