-- ==== Sys2Proof/Certificates/Slice0/Obligations.lean ====
section
/-! DEFINITION. The statements for the provers. Each docstring names the rule or section of spec/ it rests on. -/

section
open Sys2Proof Sys2Proof.Machine

/-- Decode and encode agree on all seventeen commands, both ways (30_encoding.md R45, R46, R48).
-/
def Obligations.DecodeAndEncodeAreInverse : Prop :=
  (∀ i : Instr, decode (encode i) = .ok i) ∧
  ∀ (w : Word) (i : Instr), decode w = .ok i → encode i = w

/-- The opcode map (30_encoding.md R48), row by row, and nothing besides. -/
def Obligations.OpcodeMapDecodes : Prop :=
  decode 0x0000 = .ok .nop ∧ decode 0x0100 = .ok .crcInit ∧
  (∀ d : Byte, decode (0x0200 ||| d.setWidth 16) = .ok (.crcByte d)) ∧
  decode 0x0300 = .ok .crcRead ∧
  (∀ a : Byte, decode (0x1000 ||| a.setWidth 16) = .ok (.encStart a)) ∧
  (∀ d : Byte, decode (0x1100 ||| d.setWidth 16) = .ok (.encByte d)) ∧
  decode 0x1200 = .ok .encFinish ∧ decode 0x2000 = .ok .decStart ∧
  (∀ d : Byte, decode (0x2100 ||| d.setWidth 16) = .ok (.decByte d)) ∧
  decode 0x2200 = .ok .decFinish ∧ decode 0x2300 = .ok .decTimeout ∧
  decode 0x3000 = .ok .rdByte ∧ decode 0x3100 = .ok .rdLen ∧ decode 0x3200 = .ok .rdAddr ∧
  decode 0x3300 = .ok .rdStatus ∧ decode 0x3E00 = .ok .clrStatus ∧ decode 0x3F00 = .ok .abort ∧
  (∀ w : Word, (∃ i, decode w = .ok i) ↔ ∃ r ∈ opcodeMap, w &&& r.mask = r.pattern) ∧
  (∀ w : Word, ∀ r₁ ∈ opcodeMap, ∀ r₂ ∈ opcodeMap,
    w &&& r₁.mask = r₁.pattern → w &&& r₂.mask = r₂.pattern → r₁ = r₂) ∧
  opcodeMap.map (fun r => (r.pattern, r.mask)) =
    [(0x0000, 0xFFFF), (0x0100, 0xFFFF), (0x0200, 0xFF00), (0x0300, 0xFFFF), (0x1000, 0xFF00),
      (0x1100, 0xFF00), (0x1200, 0xFFFF), (0x2000, 0xFFFF), (0x2100, 0xFF00), (0x2200, 0xFFFF),
      (0x2300, 0xFFFF), (0x3000, 0xFFFF), (0x3100, 0xFFFF), (0x3200, 0xFFFF), (0x3300, 0xFFFF),
      (0x3E00, 0xFFFF), (0x3F00, 0xFFFF)]

/-- Reserved encodings (30_encoding.md R50) and what they execute (60_exceptions.md R81). -/
def Obligations.ReservedEncodingsFailAsIllegalCommand : Prop :=
  (∀ w : Word, (∃ r, decode w = .error r) ↔
    (opField w ∉ ([0x00, 0x01, 0x02, 0x03, 0x10, 0x11, 0x12, 0x20, 0x21, 0x22, 0x23, 0x30, 0x31, 0x32,
        0x33, 0x3E, 0x3F] : List Byte) ∨
      (opField w ∈ ([0x00, 0x01, 0x03, 0x12, 0x20, 0x22, 0x23, 0x30, 0x31, 0x32, 0x33, 0x3E, 0x3F] :
        List Byte) ∧ argField w ≠ 0))) ∧
  ((List.range 256).filter fun n => BitVec.ofNat 8 n ∉ ([0x00, 0x01, 0x02, 0x03, 0x10, 0x11, 0x12,
    0x20, 0x21, 0x22, 0x23, 0x30, 0x31, 0x32, 0x33, 0x3E, 0x3F] : List Byte)).length = 239 ∧
  ∀ (s : State) (w : Word) (rest : List Input) (r : Reject),
    s.inputs = .cmd w :: rest → decode w = .error r →
    step s = .next { s with inputs := rest, last := .illegalCommand, sticky := true,
                            responses := s.responses ++ [respWord .illegalCommand 0] }

/-- One step (20_memory.md R37, R41, 30_encoding.md R51). The input list is the model's own (log
3, log 6). -/
def Obligations.StepRunsTheDecodedCommand : Prop :=
  (∀ (s : State) (w : Word) (rest : List Input) (i : Instr),
    s.inputs = .cmd w :: rest → decode w = .ok i → step s = exec i { s with inputs := rest }) ∧
  (∀ s : State, s.inputs = [] → step s = .next s) ∧
  ∀ (s : State) (rest : List Input), s.inputs = .reset :: rest →
    step s = .next { State.resetWith s.config with inputs := rest, responses := s.responses }

/-- Words written out from the spec's listings (95_test_vectors.md P1 to P7). -/
def Obligations.WordsOfTheSpecDecode : Prop :=
  decode 0x1001 = .ok (.encStart 0x01) ∧ decode 0x1142 = .ok (.encByte 0x42) ∧
  decode 0x1200 = .ok .encFinish ∧ decode 0x2000 = .ok .decStart ∧
  decode 0x21AC = .ok (.decByte 0xAC) ∧ decode 0x2200 = .ok .decFinish ∧
  decode 0x2300 = .ok .decTimeout ∧ decode 0x3000 = .ok .rdByte ∧ decode 0x3E00 = .ok .clrStatus ∧
  decode 0x0239 = .ok (.crcByte 0x39) ∧ decode 0x3F00 = .ok .abort ∧
  decode 0x0001 = .error (.nonzeroArg 0x00 0x01) ∧ decode 0x4000 = .error (.reservedOpcode 0x40) ∧
  decode 0xFFFF = .error (.reservedOpcode 0xFF)

/-- The mode table (10_state.md R18) and what a command outside it does (60_exceptions.md R82). -/
def Obligations.CommandsOutOfSequenceFail : Prop :=
  ∀ (i : Instr) (s : State),
    (s.mode ∉ legalModes i →
      exec i s = .next { s with last := .illegalSequence, sticky := true,
                                responses := s.responses ++ [respWord .illegalSequence 0] }) ∧
    (s.mode ∈ legalModes i → ∀ t, exec i s = .next t →
      ∀ data, t.responses ≠ s.responses ++ [respWord .illegalSequence data])

/-- The order of the checks (30_encoding.md R51, 60_exceptions.md R85). -/
def Obligations.FirstFailingCheckDecides : Prop :=
  (∀ w : Word, (∃ i, decode w = .ok i) ∨ ∃ r, decode w = .error r) ∧
  (∀ (s : State) (w : Word) (rest : List Input), s.inputs = .cmd w :: rest →
    (∀ r, decode w = .error r →
      step s = .next (afterError .illegalCommand { s with inputs := rest })) ∧
    (∀ i, decode w = .ok i → s.mode ∉ legalModes i →
      step s = .next (afterError .illegalSequence { s with inputs := rest }))) ∧
  (∀ (i : Instr) (arg : Byte), argFormOf i = .z8 → arg ≠ 0 →
    decode (cmdWord (opcodeOf i) arg) = .error (.nonzeroArg (opcodeOf i) arg)) ∧
  (∀ s : State, s.mode = .decOpen → (s.ovf = true ∨ s.len.toNat < 4) →
    exec .decFinish s = .next (afterFrameError .frameLength s)) ∧
  ∀ (s : State) (f : List Byte), s.mode = .decOpen → s.ovf = false → s.Holds f → 4 ≤ f.length →
    crc16 (f.take (f.length - 2)) ≠ transmittedCrc f →
    exec .decFinish s =
      .next (afterFrameError .frameCrc { s with crc := crc16 (f.take (f.length - 2)) })

/-- NOP (43_readout_control.md R71). -/
def Obligations.NopDoesNothing : Prop :=
  decode 0x0000 = .ok .nop ∧ NonzeroArgIsReserved 0x00 ∧
  ∀ s : State, exec .nop s = .next { s with responses := s.responses ++ [respWord .ok 0] }

/-- CRC_INIT (40_crc.md R59). -/
def Obligations.CrcInitSetsTheInitialValue : Prop :=
  decode 0x0100 = .ok .crcInit ∧ NonzeroArgIsReserved 0x01 ∧
  (∀ s : State, exec .crcInit s =
    .next { s with crc := 0xFFFF, last := .ok, responses := s.responses ++ [respWord .ok 0xFFFF] }) ∧
  ∀ s t : State, exec .crcInit s = .next t →
    exec .crcInit t = .next { t with responses := t.responses ++ [respWord .ok 0xFFFF] }

/-- CRC_BYTE (40_crc.md R60). -/
def Obligations.CrcByteFeedsOneByte : Prop :=
  (∀ d : Byte, decode (0x0200 ||| d.setWidth 16) = .ok (.crcByte d)) ∧
  (∀ (d : Byte) (s : State), exec (.crcByte d) s =
    .next { s with crc := crcStep s.crc d, last := .ok,
                   responses := s.responses ++ [respWord .ok (crcStep s.crc d)] }) ∧
  crcStep 0xFFFF 0x00 = 0x40BF ∧ crcStep 0x0000 0x00 = 0x0000 ∧ crcStep 0xFFFF 0x01 = 0x807E

/-- CRC_READ (40_crc.md R61). -/
def Obligations.CrcReadReturnsTheAccumulator : Prop :=
  decode 0x0300 = .ok .crcRead ∧ NonzeroArgIsReserved 0x03 ∧
  ∀ s : State, exec .crcRead s =
    .next { s with last := .ok, responses := s.responses ++ [respWord .ok s.crc] }

/-- ENC_START (41_encoder.md R62). -/
def Obligations.EncStartOpensAnAdu : Prop :=
  (∀ a : Byte, decode (0x1000 ||| a.setWidth 16) = .ok (.encStart a)) ∧
  ∀ (a : Byte) (s : State), s.config.wf = true → ∃ t, exec (.encStart a) s = .next t ∧
    t = { s with buf := t.buf, len := 1, rdptr := 0, ovf := false, mode := .encOpen,
                 frame := .noVerdict, last := .ok, responses := s.responses ++ [respWord .ok 0] } ∧
    t.buf.read 0 = some a ∧ ∀ j, j ≠ 0 → t.buf.read j = s.buf.read j

/-- ENC_BYTE (41_encoder.md R63). -/
def Obligations.EncByteAppendsOrFails : Prop :=
  (∀ d : Byte, decode (0x1100 ||| d.setWidth 16) = .ok (.encByte d)) ∧
  (∀ d : Byte, LegalOnlyIn (.encByte d) [.encOpen]) ∧
  (∀ (d : Byte) (s : State), s.mode = .encOpen → s.len.toNat + 2 = s.config.maxAdu →
    exec (.encByte d) s = .next (afterFrameError .encLength s) ∧
    ∀ d' : Byte, exec (.encByte d') (afterFrameError .encLength s) =
      .next (afterError .illegalSequence (afterFrameError .encLength s))) ∧
  ∀ (d : Byte) (s : State), s.mode = .encOpen → s.len.toNat + 2 < s.config.maxAdu →
    ∃ t, exec (.encByte d) s = .next t ∧
      t = { s with buf := t.buf, len := s.len + 1, last := .ok,
                   responses := s.responses ++ [respWord .ok 0] } ∧
      t.buf.read (appendIndex s) = some d ∧
      ∀ j, j ≠ appendIndex s → t.buf.read j = s.buf.read j

/-- ENC_FINISH (41_encoder.md R64). -/
def Obligations.EncFinishAppendsTheCrc : Prop :=
  decode 0x1200 = .ok .encFinish ∧ NonzeroArgIsReserved 0x12 ∧ LegalOnlyIn .encFinish [.encOpen] ∧
  (∀ s : State, s.mode = .encOpen → s.len.toNat < 2 →
    exec .encFinish s = .next (afterFrameError .encLength s)) ∧
  (∀ s : State, s.Inv → s.mode = .encOpen → s.Holds s.held ∧ s.held.length + 2 ≤ s.config.maxAdu) ∧
  ∀ (s : State) (f : List Byte), s.mode = .encOpen → s.Holds f → 2 ≤ f.length →
    f.length + 2 ≤ s.config.maxAdu →
    ∃ t, exec .encFinish s = .next t ∧
      t = { s with buf := t.buf, len := s.len + 2, crc := crc16 f, rdptr := 0, mode := .encDone,
                   frame := .ok, last := .ok,
                   responses := s.responses ++ [respWord .ok (crc16 f)] } ∧
      t.buf.read (appendIndex s) = some (lo8 (crc16 f)) ∧
      t.buf.read (appendIndex s + 1) = some (hi8 (crc16 f)) ∧
      ∀ j, j ≠ appendIndex s → j ≠ appendIndex s + 1 → t.buf.read j = s.buf.read j

/-- DEC_START (42_decoder.md R66). -/
def Obligations.DecStartOpensAReceivedFrame : Prop :=
  decode 0x2000 = .ok .decStart ∧ NonzeroArgIsReserved 0x20 ∧
  ∀ s : State, exec .decStart s =
    .next { s with len := 0, rdptr := 0, ovf := false, mode := .decOpen, frame := .noVerdict,
                   last := .ok, responses := s.responses ++ [respWord .ok 0] }

/-- DEC_BYTE (42_decoder.md R67). -/
def Obligations.DecByteAppendsOrDrops : Prop :=
  (∀ d : Byte, decode (0x2100 ||| d.setWidth 16) = .ok (.decByte d)) ∧
  (∀ d : Byte, LegalOnlyIn (.decByte d) [.decOpen]) ∧
  (∀ (d : Byte) (s : State), s.mode = .decOpen → s.len.toNat = s.config.maxAdu →
    exec (.decByte d) s = .next (afterError .frameLength { s with ovf := true })) ∧
  (∀ s : State, s.mode = .decOpen → s.ovf = true →
    exec .decFinish s = .next (afterFrameError .frameLength s)) ∧
  ∀ (d : Byte) (s : State), s.mode = .decOpen → s.len.toNat < s.config.maxAdu →
    ∃ t, exec (.decByte d) s = .next t ∧
      t = { s with buf := t.buf, len := s.len + 1, last := .ok,
                   responses := s.responses ++ [respWord .ok 0] } ∧
      t.buf.read (appendIndex s) = some d ∧
      ∀ j, j ≠ appendIndex s → t.buf.read j = s.buf.read j

/-- DEC_FINISH (42_decoder.md R68). -/
def Obligations.DecFinishChecksTheFrame : Prop :=
  decode 0x2200 = .ok .decFinish ∧ NonzeroArgIsReserved 0x22 ∧ LegalOnlyIn .decFinish [.decOpen] ∧
  (∀ s : State, s.mode = .decOpen → (s.ovf = true ∨ s.len.toNat < 4) →
    exec .decFinish s = .next (afterFrameError .frameLength s)) ∧
  (∀ (s : State) (f : List Byte), s.mode = .decOpen → s.ovf = false → s.Holds f → 4 ≤ f.length →
    crc16 (f.take (f.length - 2)) ≠
      f.getD (f.length - 1) 0 ++ f.getD (f.length - 2) 0 →
    exec .decFinish s =
      .next (afterFrameError .frameCrc { s with crc := crc16 (f.take (f.length - 2)) })) ∧
  (∀ (s : State) (f : List Byte), s.mode = .decOpen → s.ovf = false → s.Holds f → 4 ≤ f.length →
    crc16 (f.take (f.length - 2)) =
      f.getD (f.length - 1) 0 ++ f.getD (f.length - 2) 0 →
    exec .decFinish s =
      .next { s with crc := crc16 (f.take (f.length - 2)), rdptr := 1, mode := .decDone, frame := .ok,
                     last := .ok, responses := s.responses ++ [respWord .ok (s.len - 3)] }) ∧
  ∀ (s : State) (code : Code),
    exec .rdByte (afterFrameError code s) =
      .next (afterError .illegalSequence (afterFrameError code s)) ∧
    exec .rdAddr (afterFrameError code s) =
      .next (afterError .illegalSequence (afterFrameError code s))

/-- DEC_TIMEOUT (42_decoder.md R69). -/
def Obligations.DecTimeoutEndsTheFrame : Prop :=
  decode 0x2300 = .ok .decTimeout ∧ NonzeroArgIsReserved 0x23 ∧ LegalOnlyIn .decTimeout [.decOpen] ∧
  ∀ s : State, s.mode = .decOpen → exec .decTimeout s =
    .next { s with mode := .idle, len := 0, rdptr := 0, ovf := false, frame := .timeout,
                   last := .timeout, sticky := true,
                   responses := s.responses ++ [respWord .timeout 0] }

/-- RD_BYTE (43_readout_control.md R72). -/
def Obligations.RdByteReturnsTheNextByte : Prop :=
  decode 0x3000 = .ok .rdByte ∧ NonzeroArgIsReserved 0x30 ∧ LegalOnlyIn .rdByte [.encDone, .decDone] ∧
  (∀ (s : State) (f : List Byte) (b : Byte), s.Holds f → f[s.rdptr.toNat]? = some b →
    (s.mode = .encDone ∨ (s.mode = .decDone ∧ s.rdptr.toNat + 2 < f.length)) →
    exec .rdByte s = .next { s with rdptr := s.rdptr + 1, last := .ok,
                                    responses := s.responses ++ [respWord .ok (zext16 b)] }) ∧
  (∀ s : State, ((s.mode = .encDone ∧ s.len.toNat ≤ s.rdptr.toNat) ∨
      (s.mode = .decDone ∧ 2 ≤ s.len.toNat ∧ s.len.toNat ≤ s.rdptr.toNat + 2)) →
    exec .rdByte s = .next { s with last := .empty,
                                    responses := s.responses ++ [respWord .empty 0] } ∧
    ∀ t, exec .rdByte s = .next t →
      exec .rdByte t = .next { t with responses := t.responses ++ [respWord .empty 0] })

/-- RD_LEN (43_readout_control.md R73). -/
def Obligations.RdLenReturnsTheLength : Prop :=
  decode 0x3100 = .ok .rdLen ∧ NonzeroArgIsReserved 0x31 ∧
  ∀ (s : State) (n : Word),
    ((s.mode = .idle ∧ n = 0) ∨ (s.mode ∈ [Mode.encOpen, .encDone, .decOpen] ∧ n = s.len) ∨
      (s.mode = .decDone ∧ n = s.len - 3)) →
    exec .rdLen s = .next { s with last := .ok, responses := s.responses ++ [respWord .ok n] }

/-- RD_ADDR (43_readout_control.md R74). -/
def Obligations.RdAddrReturnsTheAddress : Prop :=
  decode 0x3200 = .ok .rdAddr ∧ NonzeroArgIsReserved 0x32 ∧ LegalOnlyIn .rdAddr [.decDone] ∧
  ∀ (s : State) (f : List Byte) (b : Byte), s.mode = .decDone → s.Holds f → f[0]? = some b →
    exec .rdAddr s = .next { s with last := .ok, responses := s.responses ++ [respWord .ok (zext16 b)] }

/-- RD_STATUS (43_readout_control.md R75). -/
def Obligations.RdStatusReturnsTheView : Prop :=
  decode 0x3300 = .ok .rdStatus ∧ NonzeroArgIsReserved 0x33 ∧
  (∀ s : State, exec .rdStatus s =
    .next { s with responses := s.responses ++ [respWord .ok (statusWord s)] }) ∧
  (∀ s : State, statusWord s = 0#3 ++ BitVec.ofBool s.ovf ++ codeBits s.frame ++
    BitVec.ofBool s.sticky ++ modeBits s.mode ++ codeBits s.last) ∧
  ∀ s t : State, exec .rdStatus s = .next t →
    exec .rdStatus t = .next { t with responses := t.responses ++ [respWord .ok (statusWord s)] }

/-- CLR_STATUS (43_readout_control.md R76). -/
def Obligations.ClrStatusClearsSticky : Prop :=
  decode 0x3E00 = .ok .clrStatus ∧ NonzeroArgIsReserved 0x3E ∧
  ∀ s : State, exec .clrStatus s =
    .next { s with sticky := false, last := .ok, responses := s.responses ++ [respWord .ok 0] }

/-- ABORT (43_readout_control.md R77). -/
def Obligations.AbortAbandonsTheFrame : Prop :=
  decode 0x3F00 = .ok .abort ∧ NonzeroArgIsReserved 0x3F ∧
  ∀ s : State, exec .abort s =
    .next { s with mode := .idle, len := 0, rdptr := 0, ovf := false, frame := .noVerdict,
                   last := .ok, responses := s.responses ++ [respWord .ok 0] }

/-- crc_step (40_crc.md R54; bit order: 93_implementation_defined.md G1). -/
def Obligations.CrcStepIsTheShiftLoop : Prop :=
  (∀ (c : Word) (b : Byte), crcStep c b =
    (fun x : Word => if x.getLsbD 0 then (x >>> 1) ^^^ 0xA001 else x >>> 1)^[8]
      (c ^^^ b.setWidth 16)) ∧
  crcStep 0x0000 0x00 = 0x0000 ∧
  ∀ (c : Word) (b : Byte), crcStep c b = crcStep (c ^^^ b.setWidth 16) 0x00

/-- crc16 (40_crc.md R55; no final XOR: 93_implementation_defined.md G2). -/
def Obligations.CrcOfAStringIsFedByteByByte : Prop :=
  crc16 [] = 0xFFFF ∧ (∀ (s : List Byte) (b : Byte), crc16 (s ++ [b]) = crcStep (crc16 s) b) ∧
  crc16 [0x31, 0x32, 0x33, 0x34, 0x35, 0x36, 0x37, 0x38, 0x39] = 0x4B37

/-- The table form (40_crc.md R56, derived there from R54). -/
def Obligations.TableDrivenCrcAgrees : Prop :=
  crcTable = (List.range 256).map (fun n => crcStep 0x0000 (BitVec.ofNat 8 n)) ∧
  ∀ (c : Word) (b : Byte), crcStep c b =
    (c >>> 8) ^^^ crcTable.getD ((c ^^^ b.setWidth 16) &&& 0x00FF).toNat 0

/-- The zero residue (40_crc.md R57, derived there from R54 and R55). -/
def Obligations.OwnCrcIsTheOnlyZeroResidue : Prop :=
  (∀ (s : List Byte) (x y : Byte),
    crc16 (s ++ [x, y]) = 0x0000 ↔ x = lo8 (crc16 s) ∧ y = hi8 (crc16 s)) ∧
  ∀ f : List Byte, 2 ≤ f.length →
    (crc16 f = 0x0000 ↔
      crc16 (f.take (f.length - 2)) = f.getD (f.length - 1) 0 ++ f.getD (f.length - 2) 0)

/-- Single-byte corruption (40_crc.md R58, derived there from R54). -/
def Obligations.EverySingleByteCorruptionIsDetected : Prop :=
  ∀ (f : List Byte) (k : Nat) (b : Byte), 4 ≤ f.length → k < f.length → f[k]? ≠ some b →
    crcAccepts f = true → crcAccepts (f.set k b) = false

/-- Reset values (10_state.md R30). -/
def Obligations.ResetLeavesTheSpecValues : Prop :=
  ∀ c : Config,
    (State.resetWith c).mode = .idle ∧ (State.resetWith c).len = 0 ∧ (State.resetWith c).rdptr = 0 ∧
    (State.resetWith c).ovf = false ∧ (State.resetWith c).crc = 0xFFFF ∧
    (State.resetWith c).last = .ok ∧ (State.resetWith c).sticky = false ∧
    (State.resetWith c).frame = .noVerdict ∧ statusWord (State.resetWith c) = 0x0F00 ∧
    (∀ d : Byte, ∃ t, exec (.crcByte d) (State.resetWith c) = .next t ∧ t.crc = crc16 [d])

/-- The reset event (70_reset_and_hazards.md R92). The event as an input is the model's own (log
6). -/
def Obligations.ResetEventRestoresEveryElement : Prop :=
  (∀ (s : State) (rest : List Input), s.inputs = .reset :: rest → ∃ t, step s = .next t ∧
    t.mode = .idle ∧ t.len = 0 ∧ t.rdptr = 0 ∧ t.ovf = false ∧ t.crc = 0xFFFF ∧ t.last = .ok ∧
    t.sticky = false ∧ t.frame = .noVerdict ∧ t.config = s.config ∧ t.inputs = rest ∧
    t.responses = s.responses) ∧
  ∀ s t : State, exec .abort s = .next t → t.crc = s.crc ∧ t.sticky = s.sticky

/-- The invariant holds at reset (10_state.md R28, R30). -/
def Obligations.ResetMeetsTheInvariant : Prop :=
  (∀ c : Config, c.wf = true ↔ 143 ≤ c.maxAdu ∧ c.maxAdu ≤ 65535) ∧
  (∀ c : Config, c.wf = true → (State.resetWith c).Inv) ∧
  State.reset = State.resetWith { maxAdu := 256 } ∧ State.reset.Inv

/-- The invariant of 10_state.md R28, kept by every step, from every state that meets it. -/
def Obligations.EveryStepKeepsTheInvariant : Prop :=
  ∀ s t : State, s.Inv → step s = .next t → t.Inv

/-- An error never stops the framer (60_exceptions.md R78); no state cannot accept a command
(70_reset_and_hazards.md R94). -/
def Obligations.TheFramerNeverStops : Prop :=
  ∀ s : State, s.Inv → ∃ t, step s = .next t

/-- Runs (70_reset_and_hazards.md R94) and the invariant over them (10_state.md R28). -/
def Obligations.EveryRunFromResetIsSafe : Prop :=
  ∀ (c : Config) (ins : List Input), c.wf = true →
    ∃ t, Host.Core.run Sys2Proof.core ins.length { State.resetWith c with inputs := ins } = .next t ∧
      t.Inv ∧ t.inputs = [] ∧
      t.responses.length = (ins.filter fun x => decide (x ≠ .reset)).length

/-- The STATUS view (10_state.md R27). -/
def Obligations.StatusViewHasTheSpecLayout : Prop :=
  (∀ s : State,
    (statusWord s).extractLsb' 0 4 = codeBits s.last ∧
    (statusWord s).extractLsb' 4 3 = modeBits s.mode ∧
    (statusWord s).getLsbD 7 = s.sticky ∧
    (statusWord s).extractLsb' 8 4 = codeBits s.frame ∧
    (statusWord s).getLsbD 12 = s.ovf ∧
    (statusWord s).extractLsb' 13 3 = 0) ∧
  (∀ s : State, statusWord s = 0#3 ++ BitVec.ofBool s.ovf ++ codeBits s.frame ++
    BitVec.ofBool s.sticky ++ modeBits s.mode ++ codeBits s.last) ∧
  (∀ s : State, exec .rdStatus s =
    .next { s with responses := s.responses ++ [respWord .ok (statusWord s)] }) ∧
  ∀ s t : State, exec .clrStatus s = .next t →
    (statusWord t).extractLsb' 0 4 = 0 ∧ (statusWord t).getLsbD 7 = false

/-- Result codes (10_state.md R23). -/
def Obligations.ResultCodesHaveTheirNumbers : Prop :=
  codeBits .ok = 0x0 ∧ codeBits .frameCrc = 0x1 ∧ codeBits .frameLength = 0x2 ∧
  codeBits .timeout = 0x3 ∧ codeBits .encLength = 0x4 ∧ codeBits .illegalCommand = 0x5 ∧
  codeBits .illegalSequence = 0x6 ∧ codeBits .empty = 0x7 ∧ codeBits .noVerdict = 0xF ∧
  (∀ c : Code, isError c = true ↔ 1 ≤ (codeBits c).toNat ∧ (codeBits c).toNat ≤ 6) ∧
  (∀ c : Code, ¬ (8 ≤ (codeBits c).toNat ∧ (codeBits c).toNat ≤ 14)) ∧
  ∀ c d : Code, codeBits c = codeBits d → c = d

/-- MODE (10_state.md R17). -/
def Obligations.ModeIsWrittenOnlyByItsCommands : Prop :=
  modeBits .idle = 0 ∧ modeBits .encOpen = 1 ∧ modeBits .encDone = 2 ∧ modeBits .decOpen = 3 ∧
  modeBits .decDone = 4 ∧ (∀ m : Mode, (modeBits m).toNat ≤ 4) ∧
  (∀ (i : Instr) (s t : State), exec i s = .next t →
    (∀ a, i ≠ .encStart a) → (∀ d, i ≠ .encByte d) →
    i ∉ [Instr.encFinish, .decStart, .decFinish, .decTimeout, .abort] → t.mode = s.mode) ∧
  ∀ (s t : State) (w : Word) (rest : List Input) (r : Reject), s.inputs = .cmd w :: rest →
    decode w = .error r → step s = .next t → t.mode = s.mode

/-- LEN (10_state.md R19; ENC_START by 41_encoder.md R62, log 9). -/
def Obligations.LenGrowsOnlyByAppending : Prop :=
  ∀ (i : Instr) (s t : State), s.Inv → exec i s = .next t →
    t.len.toNat ≤ t.config.maxAdu ∧
    (t.len = s.len ∨
      (t.len.toNat = s.len.toNat + 1 ∧ ∃ d, i = .encByte d ∨ i = .decByte d) ∨
      (t.len.toNat = s.len.toNat + 2 ∧ i = .encFinish) ∨
      (t.len = 1 ∧ ∃ a, i = .encStart a) ∨
      (t.len = 0 ∧ (i = .decStart ∨ i = .abort)) ∨
      (t.len = 0 ∧ t.mode = .idle ∧ isError t.frame = true ∧ t.frame = t.last))

/-- RDPTR (10_state.md R20). -/
def Obligations.RdptrMovesOnlyByReading : Prop :=
  ∀ (i : Instr) (s t : State), s.Inv → exec i s = .next t →
    (t.rdptr = s.rdptr ∨ (t.rdptr.toNat = s.rdptr.toNat + 1 ∧ i = .rdByte) ∨ t.rdptr = 0 ∨
      (t.rdptr = 1 ∧ i = .decFinish ∧ t.mode = .decDone)) ∧
    (t.mode = .encDone → t.rdptr.toNat ≤ t.len.toNat) ∧
    (t.mode = .decDone → 1 ≤ t.rdptr.toNat ∧ t.rdptr.toNat + 2 ≤ t.len.toNat) ∧
    (t.mode ≠ .encDone → t.mode ≠ .decDone → t.rdptr = 0) ∧
    (i = .encFinish → t.mode = .encDone → s.mode = .encOpen → t.rdptr = 0)

/-- OVF (10_state.md R21). -/
def Obligations.OvfIsSetOnlyByADroppedByte : Prop :=
  (∀ (i : Instr) (s t : State), exec i s = .next t → s.ovf = false → t.ovf = true →
    (∃ d, i = .decByte d) ∧ s.mode = .decOpen ∧ s.len.toNat = s.config.maxAdu ∧
      t.buf = s.buf ∧ t.len = s.len) ∧
  (∀ (i : Instr) (s t : State), exec i s = .next t →
    ((∃ a, i = .encStart a) ∨ i = .decStart ∨ i = .abort → t.ovf = false) ∧
    (t.mode = .idle → s.mode ≠ .idle → t.ovf = false)) ∧
  (∀ (i : Instr) (s t : State), exec i s = .next t → s.ovf = true → t.ovf = false →
    (∃ a, i = .encStart a) ∨ i = .decStart ∨ i = .abort ∨ (t.mode = .idle ∧ isError t.frame = true)) ∧
  (∀ c : Config, (State.resetWith c).ovf = false) ∧
  (∀ (i : Instr) (s t : State) (b : Bool), i ≠ .decFinish → i ≠ .rdStatus → exec i s = .next t →
    ∃ u, exec i { s with ovf := b } = .next u ∧ t = { u with ovf := t.ovf }) ∧
  (∀ s : State, s.mode = .decOpen → s.ovf = true →
    exec .decFinish s = .next (afterFrameError .frameLength s)) ∧
  ∀ s : State, s.Inv → s.mode ≠ .decOpen → s.ovf = false

/-- CRC (10_state.md R22). -/
def Obligations.CrcHasItsWritersAndReaders : Prop :=
  (∀ (i : Instr) (s t : State), exec i s = .next t → (∀ d, i ≠ .crcByte d) →
    i ∉ [Instr.crcInit, .encFinish, .decFinish] → t.crc = s.crc) ∧
  (∀ (i : Instr) (s t : State), exec i s = .next t → i = .encFinish ∨ i = .decFinish →
    t.mode = s.mode ∨ t.frame = .encLength ∨ t.frame = .frameLength → t.crc = s.crc) ∧
  ∀ (i : Instr) (s t : State) (c : Word), (∀ d, i ≠ .crcByte d) → i ≠ .crcRead →
    exec i s = .next t →
    ∃ u, exec i { s with crc := c } = .next u ∧ t = { u with crc := t.crc } ∧
      (i = .encFinish ∨ i = .decFinish → s.mode ∈ legalModes i → t.frame ∈ [Code.ok, .frameCrc] →
        u = t)

/-- Unwritten and stale bytes (10_state.md R29, 20_memory.md R32). -/
def Obligations.BytesOutsideTheFrameAreNeverObservable : Prop :=
  ∀ s t : State, s.Inv → t.Inv → SameBelowLen s t →
    ∃ s' t', step s = .next s' ∧ step t = .next t' ∧ SameBelowLen s' t' ∧ s'.responses = t'.responses

/-- STICKY (10_state.md R25). -/
def Obligations.StickyRecordsEveryError : Prop :=
  (∀ (s t : State) (w : Word) (rest : List Input), s.inputs = .cmd w :: rest → step s = .next t →
    ∃ (code : Code) (data : Word), t.responses = s.responses ++ [respWord code data] ∧
      (code ∈ [Code.frameCrc, .frameLength, .timeout, .encLength, .illegalCommand,
          .illegalSequence] → t.sticky = true) ∧
      (code ∈ [Code.ok, .empty] → w ≠ 0x3E00 → t.sticky = s.sticky) ∧
      (w = 0x3E00 → t.sticky = false)) ∧
  ∀ c : Config, (State.resetWith c).sticky = false

/-- LAST (10_state.md R24). -/
def Obligations.LastHoldsTheRespondedCode : Prop :=
  (∀ (s t : State) (w : Word) (rest : List Input), s.inputs = .cmd w :: rest → step s = .next t →
    ∃ (code : Code) (data : Word), t.responses = s.responses ++ [respWord code data] ∧
      code ≠ .noVerdict ∧
      (w ≠ 0x0000 → w ≠ 0x3300 → t.last = code) ∧
      (w = 0x0000 ∨ w = 0x3300 → t.last = s.last)) ∧
  ∀ s t : State, s.Inv → step s = .next t → t.last ≠ .noVerdict

/-- FRAME (10_state.md R26). -/
def Obligations.FrameHoldsTheVerdict : Prop :=
  (∀ (i : Instr) (s t : State), exec i s = .next t →
    ((∃ a, i = .encStart a) ∨ i = .decStart ∨ i = .abort → t.frame = .noVerdict) ∧
    (i = .encFinish → s.mode = .encOpen → t.frame = t.last ∧ t.frame ∈ [Code.ok, .encLength]) ∧
    (i = .decFinish → s.mode = .decOpen →
      t.frame = t.last ∧ t.frame ∈ [Code.ok, .frameLength, .frameCrc]) ∧
    ((∃ d, i = .encByte d) → s.mode = .encOpen →
      (t.mode = .idle ∧ t.frame = .encLength) ∨ (t.mode = .encOpen ∧ t.frame = s.frame)) ∧
    (i = .decTimeout → s.mode = .decOpen → t.frame = .timeout) ∧
    ((∀ a, i ≠ .encStart a) → (∀ d, i ≠ .encByte d) →
      i ∉ [Instr.encFinish, .decStart, .decFinish, .decTimeout, .abort] → t.frame = s.frame) ∧
    (s.mode ∉ legalModes i → t.frame = s.frame)) ∧
  (∀ c : Config, (State.resetWith c).frame = .noVerdict) ∧
  ∀ s : State, s.Inv → (s.mode = .encOpen ∨ s.mode = .decOpen → s.frame = .noVerdict) ∧
    s.frame ∈ [Code.noVerdict, .ok, .frameCrc, .frameLength, .timeout, .encLength]

/-- The writes of 20_memory.md R31; the frame of all seventeen commands on BUF, MAX_ADU and the
port. -/
def Obligations.CommandsStoreOnlyWhereTheTableSays : Prop :=
  ∀ (i : Instr) (s t : State), exec i s = .next t →
    (∀ j, j ∉ storedIndices i s → t.buf.read j = s.buf.read j) ∧
    t.config = s.config ∧ t.inputs = s.inputs

/-- Responses (30_encoding.md R47). -/
def Obligations.EveryCommandGivesOneResponse : Prop :=
  (∀ (code : Code) (data : Word), respCode (respWord code data) = codeBits code ∧
    respData (respWord code data) = data) ∧
  (∀ b : Byte, (zext16 b).toNat = b.toNat) ∧
  ∀ (s t : State) (w : Word) (rest : List Input), s.inputs = .cmd w :: rest → step s = .next t →
    ∃ (code : Code) (data : Word), t.responses = s.responses ++ [respWord code data] ∧
      code ≠ .noVerdict ∧ (code ≠ .ok → data = 0)

/-- The two error outcomes (60_exceptions.md R79, R80). -/
def Obligations.FailWritesExactlyItsFields : Prop :=
  (∀ (s : State) (code : Code), isError code = true →
    fail code s = { s with last := code, sticky := true,
                           responses := s.responses ++ [respWord code 0] }) ∧
  (∀ (s : State) (code : Code), isError code = false →
    fail code s = { s with last := code, responses := s.responses ++ [respWord code 0] }) ∧
  ∀ (s : State) (code : Code),
    frameFail code s = { s with mode := .idle, len := 0, rdptr := 0, ovf := false, frame := code,
                                last := code, sticky := true,
                                responses := s.responses ++ [respWord code 0] }

/-- Reads and their side effects (20_memory.md R38). -/
def Obligations.RepeatedReadsReturnTheSame : Prop :=
  (∀ (i : Instr) (s t : State), i ∈ [Instr.crcRead, .rdLen, .rdAddr, .rdStatus] →
    exec i s = .next t → ∃ r, t.responses = s.responses ++ [r] ∧
      exec i t = .next { t with responses := t.responses ++ [r] }) ∧
  (∀ (i : Instr) (s t : State), i ∈ [Instr.nop, .rdStatus] → exec i s = .next t →
    t = { s with responses := t.responses }) ∧
  ∀ s t : State, exec .rdByte s = .next t → t.last = .ok → t.rdptr = s.rdptr + 1

/-- Commands after a failed frame (70_reset_and_hazards.md R98). -/
def Obligations.CommandsAfterAFailedFrameChangeNothing : Prop :=
  ∀ (i : Instr) (code : Code) (s : State), .idle ∉ legalModes i →
    exec i (frameFail code s) = .next (afterError .illegalSequence (frameFail code s)) ∧
    (afterError .illegalSequence (frameFail code s)).frame = code ∧
    (afterError .illegalSequence (frameFail code s)).sticky = true

/-- The readout hazard (70_reset_and_hazards.md R96). -/
def Obligations.StartsAndAbortDiscardTheResult : Prop :=
  ∀ (i : Instr) (s : State), s.Inv → s.mode = .encDone ∨ s.mode = .decDone →
    (∃ a, i = .encStart a) ∨ i = .decStart ∨ i = .abort →
    ∃ t, exec i s = .next t ∧ t.responses = s.responses ++ [respWord .ok 0] ∧
      exec .rdByte t = .next (afterError .illegalSequence t) ∧
      exec .rdAddr t = .next (afterError .illegalSequence t)

/-- Byte order of the CRC (20_memory.md R34). -/
def Obligations.CrcBytesLieLowByteFirst : Prop :=
  (∀ c : Word, wireBytes c = [c.extractLsb' 0 8, c.extractLsb' 8 8] ∧ wireWord (lo8 c) (hi8 c) = c) ∧
  (∀ lo hi : Byte, wireWord lo hi = hi ++ lo ∧ lo8 (wireWord lo hi) = lo ∧ hi8 (wireWord lo hi) = hi) ∧
  (∀ s t : State, exec .encFinish s = .next t → s.mode = .encOpen → t.mode = .encDone →
    s.len.toNat + 2 ≤ s.config.maxAdu → s.config.wf = true →
    t.responses = s.responses ++ [respWord .ok t.crc] ∧
    t.buf.read (t.len.toNat - 2) = some (t.crc.extractLsb' 0 8) ∧
    t.buf.read (t.len.toNat - 1) = some (t.crc.extractLsb' 8 8)) ∧
  ∀ (s : State) (f : List Byte) (lo hi : Byte), s.mode = .decOpen → s.ovf = false → s.Holds f →
    4 ≤ f.length → s.buf.read (s.len.toNat - 2) = some lo → s.buf.read (s.len.toNat - 1) = some hi →
    ∃ t, exec .decFinish s = .next t ∧ (t.mode = .decDone ↔ crc16 (f.take (f.length - 2)) = hi ++ lo)

/-- Where the model stops (20_memory.md R40, R32; log 2, log 5). No run from reset comes here
(TheFramerNeverStops). -/
def Obligations.AccessesOutsideTheBufferFault : Prop :=
  (∀ (s : State) (j : Nat) (b : Byte), s.config.maxAdu ≤ j →
    bufRead s j = .error (.bufNoSuchIndex j) ∧ bufWrite s j b = .error (.bufNoSuchIndex j)) ∧
  (∀ (s : State) (j : Nat), j < s.config.maxAdu → s.buf.read j = none →
    bufRead s j = .error (.bufUnwritten j)) ∧
  (∀ (s : State) (a : Byte), s.config.maxAdu = 0 →
    exec (.encStart a) s = .fault (.bufNoSuchIndex 0)) ∧
  (∀ (s : State) (d : Byte), s.mode = .encOpen → s.config.maxAdu ≤ s.len.toNat →
    exec (.encByte d) s = .fault (.bufNoSuchIndex (appendIndex s))) ∧
  (∀ (s : State) (d : Byte), s.mode = .decOpen → s.config.maxAdu < s.len.toNat →
    exec (.decByte d) s = .fault (.bufNoSuchIndex (appendIndex s))) ∧
  (∀ (s : State) (fl : Fault), s.mode = .encDone → s.rdptr.toNat < s.len.toNat →
    bufRead s s.rdptr.toNat = .error fl → exec .rdByte s = .fault fl) ∧
  (∀ (s : State) (fl : Fault), s.mode = .decDone → s.rdptr.toNat + 2 < s.len.toNat →
    bufRead s s.rdptr.toNat = .error fl → exec .rdByte s = .fault fl) ∧
  (∀ (s : State) (fl : Fault), s.mode = .decDone → bufRead s 0 = .error fl →
    exec .rdAddr s = .fault fl) ∧
  (∀ (s : State) (j : Nat) (fl : Fault), s.mode = .encOpen → 2 ≤ s.len.toNat → j < s.len.toNat →
    bufRead s j = .error fl → ∃ fl', exec .encFinish s = .fault fl') ∧
  (∀ (s : State) (f : List Byte), s.mode = .encOpen → 2 ≤ s.len.toNat → s.Holds f →
    s.config.maxAdu < s.len.toNat + 2 → ∃ fl, exec .encFinish s = .fault fl) ∧
  ∀ (s : State) (j : Nat) (fl : Fault), s.mode = .decOpen → s.ovf = false → 4 ≤ s.len.toNat →
    j < s.len.toNat → bufRead s j = .error fl → ∃ fl', exec .decFinish s = .fault fl'

/-- The encoder computes the source's encode (41_encoder.md R65). -/
def Obligations.EncodeFrameComputesTheSourcesEncode : Prop :=
  (∀ (s : State) (a : Byte) (p : List Byte) (rest : List Input), s.config.wf = true →
    1 ≤ p.length → p.length + 3 ≤ s.config.maxAdu → s.inputs = issue (encFrame a p) ++ rest →
    ∃ t, Host.Core.run Sys2Proof.core (p.length + 2) s = .next t ∧
      t.mode = .encDone ∧ t.len.toNat = p.length + 3 ∧ t.Holds (aduEncode a p) ∧ t.inputs = rest ∧
      t.responses = s.responses ++ okResponses (p.length + 1) ++
        [respWord .ok (crc16 (a :: p))]) ∧
  (∀ (s : State) (a : Byte) (p : List Byte) (rest : List Input), s.config.wf = true →
    1 ≤ p.length → p.length + 3 ≤ s.config.maxAdu →
    s.inputs = issue (encFrame a p ++ readOut (p.length + 3)) ++ rest →
    ∃ t, Host.Core.run Sys2Proof.core (p.length + 2 + (p.length + 3)) s = .next t ∧
      t.responses = s.responses ++ okResponses (p.length + 1) ++ [respWord .ok (crc16 (a :: p))] ++
        byteResponses (aduEncode a p)) ∧
  (∀ (s : State) (a : Byte) (rest : List Input), s.config.wf = true →
    s.inputs = issue (encFrame a []) ++ rest →
    ∃ t, Host.Core.run Sys2Proof.core 2 s = .next t ∧
      t.responses = s.responses ++ okResponses 1 ++ [respWord .encLength 0]) ∧
  ∀ (s : State) (a : Byte) (p : List Byte) (rest : List Input), s.config.wf = true →
    s.config.maxAdu - 3 < p.length → s.inputs = issue (encFrame a p) ++ rest →
    ∃ t, Host.Core.run Sys2Proof.core (s.config.maxAdu - 3 + 2) s = .next t ∧
      t.mode = .idle ∧ t.frame = .encLength ∧
      t.responses = s.responses ++ okResponses (s.config.maxAdu - 3 + 1) ++ [respWord .encLength 0]

/-- The decoder computes the source's decode (42_decoder.md R70). -/
def Obligations.DecodeFrameComputesTheSourcesDecode : Prop :=
  (∀ (s : State) (f : List Byte) (rest : List Input) (code : Code), s.config.wf = true →
    f.length ≤ s.config.maxAdu → aduDecode f = .error code → s.inputs = issue (decFrame f) ++ rest →
    ∃ t, Host.Core.run Sys2Proof.core (f.length + 2) s = .next t ∧ t.mode = .idle ∧
      t.frame = code ∧
      t.responses = s.responses ++ okResponses (f.length + 1) ++ [respWord code 0]) ∧
  (∀ f : List Byte, (f.length < 4 → aduDecode f = .error .frameLength) ∧
    (4 ≤ f.length → crc16 (f.take (f.length - 2)) ≠ transmittedCrc f →
      aduDecode f = .error .frameCrc) ∧
    (4 ≤ f.length → crc16 (f.take (f.length - 2)) = transmittedCrc f →
      aduDecode f = .ok (f.getD 0 0, (f.take (f.length - 2)).drop 1))) ∧
  (∀ (s : State) (f p : List Byte) (a : Byte) (rest : List Input), s.config.wf = true →
    f.length ≤ s.config.maxAdu → aduDecode f = .ok (a, p) →
    s.inputs = issue (decFrame f ++ [.rdAddr, .rdLen] ++ readOut (f.length - 3) ++ [.rdByte]) ++ rest →
    ∃ t, Host.Core.run Sys2Proof.core (f.length + 2 + 2 + (f.length - 3) + 1) s = .next t ∧
      t.mode = .decDone ∧ t.inputs = rest ∧
      t.responses = s.responses ++ okResponses (f.length + 1) ++
        [respWord .ok (BitVec.ofNat 16 (f.length - 3)), respWord .ok (zext16 a),
          respWord .ok (BitVec.ofNat 16 (f.length - 3))] ++ byteResponses p ++
        [respWord .empty 0]) ∧
  ∀ (s : State) (f : List Byte) (rest : List Input), s.config.wf = true →
    s.config.maxAdu < f.length → s.inputs = issue (decFrame f) ++ rest →
    ∃ t, Host.Core.run Sys2Proof.core (f.length + 2) s = .next t ∧ t.mode = .idle ∧
      t.frame = .frameLength ∧
      t.responses = s.responses ++ okResponses (s.config.maxAdu + 1) ++
        List.replicate (f.length - s.config.maxAdu) (respWord .frameLength 0) ++
        [respWord .frameLength 0]

/-- Round trip and single-byte corruption at the framer (42_decoder.md R70, 40_crc.md R58). -/
def Obligations.EncodedFramesDecodeBackAndCorruptOnesDoNot : Prop :=
  (∀ (a : Byte) (p : List Byte), 1 ≤ p.length → aduDecode (aduEncode a p) = .ok (a, p)) ∧
  ∀ (s : State) (a : Byte) (p : List Byte) (k : Nat) (b : Byte) (rest : List Input),
    s.config.wf = true → 1 ≤ p.length → p.length + 3 ≤ s.config.maxAdu →
    k < (aduEncode a p).length → (aduEncode a p)[k]? ≠ some b →
    s.inputs = issue (decFrame ((aduEncode a p).set k b)) ++ rest →
    ∃ t, Host.Core.run Sys2Proof.core (p.length + 5) s = .next t ∧ t.mode = .idle ∧
      t.frame = .frameCrc ∧ t.sticky = true ∧
      t.responses = s.responses ++ okResponses (p.length + 4) ++ [respWord .frameCrc 0]

/-- CRC_BLOCK as a stand-alone generator (30_encoding.md R53, 40_crc.md R55 and section 2). -/
def Obligations.CrcBlockComputesCrc16 : Prop :=
  ∀ (s : State) (bs : List Byte) (rest : List Input), s.inputs = issue (crcBlock bs) ++ rest →
    ∃ t, Host.Core.run Sys2Proof.core (bs.length + 2) s = .next t ∧
      t = { s with crc := crc16 bs, last := .ok, inputs := rest, responses := t.responses } ∧
      t.responses.length = s.responses.length + bs.length + 2 ∧
      t.responses.getLast? = some (respWord .ok (crc16 bs))

/-- Pseudo-commands (30_encoding.md R53). -/
def Obligations.PseudoCommandsExpandInOrder : Prop :=
  (∀ bs : List Byte, crcBlock bs = [.crcInit] ++ bs.map .crcByte ++ [.crcRead]) ∧
  (∀ (a : Byte) (p : List Byte), encFrame a p = [.encStart a] ++ p.map .encByte ++ [.encFinish]) ∧
  (∀ bs : List Byte, decFrame bs = [.decStart] ++ bs.map .decByte ++ [.decFinish]) ∧
  (∀ n : Nat, readOut n = List.replicate n .rdByte) ∧
  ∀ (s : State) (cs : List Instr) (rest : List Input), s.Inv → s.inputs = issue cs ++ rest →
    ∃ t, Host.Core.run Sys2Proof.core cs.length s = .next t ∧ t.inputs = rest ∧
      t.responses.length = s.responses.length + cs.length

/-- The assembler's text (30_encoding.md R52). Two capital hexadecimal digits, the refusal of 256
and the spacing of the listing are the model's choices (DESIGN CHOICE, log 10); that text reads
back is the model's own property. -/
def Obligations.AssemblerTextReadsBack : Prop :=
  (∀ i : Instr, parseLine (sourceText i) = some (.command i)) ∧
  (∀ (i : Instr) (comment : List Char),
    parseLine (sourceText i ++ [' ', ';'] ++ comment) = some (.command i)) ∧
  (∀ comment : List Char, parseLine (';' :: comment) = some .blank) ∧
  (∀ i : Instr, encode i = assembledWord (opcodeOf i) (argOf i)) ∧
  (∀ i : Instr, argFormOf i = .z8 → argOf i = 0) ∧
  parseLine ['E', 'N', 'C', '_', 'B', 'Y', 'T', 'E', ' ', '2', '5', '5'] =
    some (.command (.encByte 0xFF)) ∧
  parseLine ['E', 'N', 'C', '_', 'B', 'Y', 'T', 'E', ' ', '2', '5', '6'] = none ∧
  parseLine ['E', 'N', 'C', '_', 'B', 'Y', 'T', 'E'] = none ∧
  parseLine ['A', 'B', 'O', 'R', 'T', ' ', '0'] = none ∧
  listingLine (.encStart 0x01) =
    ['1', '0', '0', '1', ' ', ' ', 'E', 'N', 'C', '_', 'S', 'T', 'A', 'R', 'T', ' ', '0', 'x', '0', '1']

end
end

