-- ==== Sys2Proof/Laws/Memory.lean ====
section
/-! SUPPORT. The laws of the buffer's memory: read after write, and the canonical form (20_memory.md R31). -/

namespace Sys2Proof.Machine

@[simp] theorem Memory.read_nil (i : Nat) : Memory.read [] i = none := rfl

theorem Memory.read_cons (c : Host.Cell) (m : Memory) (i : Nat) :
    Memory.read (c :: m) i = if c.1 = i then some c.2 else Memory.read m i := rfl

theorem Memory.read_write (m : Memory) (i j : Nat) (b : Byte) :
    (m.write i b).read j = if j = i then some b else m.read j := by
  induction m with
  | nil => simp only [Memory.write, Memory.read_cons, Memory.read_nil, eq_comm (a := i)]
  | cons c m ih =>
    simp only [Memory.write]
    split_ifs with h₁ h₂ <;> simp only [Memory.read_cons, ih] <;> split_ifs <;>
      first | rfl | omega

theorem Memory.read_write_same (m : Memory) (i : Nat) (b : Byte) :
    (m.write i b).read i = some b := by simp [Memory.read_write]

theorem Memory.read_write_other (m : Memory) {i j : Nat} (b : Byte) (h : j ≠ i) :
    (m.write i b).read j = m.read j := by simp [Memory.read_write, h]

/-- A cell of a written memory is the new one or an old one. -/
theorem Memory.mem_write {m : Memory} {i : Nat} {b : Byte} {c : Host.Cell} (h : c ∈ m.write i b) :
    c = (i, b) ∨ c ∈ m := by
  induction m with
  | nil => simpa [Memory.write] using h
  | cons d m ih =>
    simp only [Memory.write] at h
    split_ifs at h <;> simp only [List.mem_cons] at h ⊢
    · tauto
    · tauto
    · rcases h with h | h
      · tauto
      · have := ih h; tauto

/-- Writing keeps the canonical form. -/
theorem Memory.wf_write {m : Memory} (h : m.wf) (i : Nat) (b : Byte) : (m.write i b).wf := by
  induction m with
  | nil => simp [Memory.write, Memory.wf]
  | cons c m ih =>
    obtain ⟨hc, hm⟩ := List.pairwise_cons.mp h
    simp only [Memory.write]
    split_ifs with h₁ h₂
    · refine List.pairwise_cons.mpr ⟨fun d hd => ?_, h⟩
      rcases List.mem_cons.mp hd with rfl | hd
      · exact h₁
      · exact h₁.trans (hc d hd)
    · exact List.pairwise_cons.mpr ⟨fun d hd => by simpa [h₂] using hc d hd, hm⟩
    · refine List.pairwise_cons.mpr ⟨fun d hd => ?_, ih hm⟩
      rcases Memory.mem_write hd with rfl | hd
      · show c.1 < i
        omega
      · exact hc d hd

/-- Writing an index below the capacity keeps the memory below it. -/
theorem Memory.within_write {m : Memory} {n i : Nat} (b : Byte) (h : ∀ c ∈ m, c.1 < n) (hi : i < n) :
    ∀ c ∈ m.write i b, c.1 < n := by
  intro c hc
  rcases Memory.mem_write hc with rfl | hc
  · exact hi
  · exact h c hc

/-- An index a canonical memory does not reach reads as no value. -/
theorem Memory.read_eq_none {m : Memory} {i : Nat} (h : ∀ c ∈ m, c.1 ≠ i) : m.read i = none := by
  induction m with
  | nil => rfl
  | cons c m ih =>
    rw [Memory.read_cons, if_neg (h c (by simp)), ih fun d hd => h d (by simp [hd])]

/-- Two canonical memories that read the same are the same list. -/
theorem Memory.eq_of_read_eq {m n : Memory} (hm : m.wf) (hn : n.wf) (h : ∀ i, m.read i = n.read i) :
    m = n := by
  induction m generalizing n with
  | nil =>
    cases n with
    | nil => rfl
    | cons d n => simpa [Memory.read_cons] using h d.1
  | cons c m ih =>
    obtain ⟨hc, hm'⟩ := List.pairwise_cons.mp hm
    cases n with
    | nil => simpa [Memory.read_cons] using h c.1
    | cons d n =>
      obtain ⟨hd, hn'⟩ := List.pairwise_cons.mp hn
      have hcd : c.1 = d.1 := by
        rcases Nat.lt_trichotomy c.1 d.1 with hlt | heq | hgt
        · have h1 := h c.1
          rw [Memory.read_cons, if_pos rfl, Memory.read_cons, if_neg (by omega),
            Memory.read_eq_none fun e he => by have := hd e he; omega] at h1
          cases h1
        · exact heq
        · have h1 := h d.1
          rw [Memory.read_cons, if_neg (by omega), Memory.read_cons, if_pos rfl,
            Memory.read_eq_none fun e he => by have := hc e he; omega] at h1
          cases h1
      have hval : c.2 = d.2 := by
        have h1 := h c.1
        rw [Memory.read_cons, if_pos rfl, Memory.read_cons, if_pos hcd.symm] at h1
        exact Option.some.inj h1
      have hcell : c = d := Prod.ext hcd hval
      subst hcell
      refine congrArg (c :: ·) (ih hm' hn' fun i => ?_)
      by_cases hi : c.1 = i
      · rw [Memory.read_eq_none fun e he => by have := hc e he; omega,
          Memory.read_eq_none fun e he => by have := hd e he; omega]
      · have h1 := h i
        rwa [Memory.read_cons, if_neg hi, Memory.read_cons, if_neg hi] at h1

end Sys2Proof.Machine
end

