-- ==== Sys2Proof/Laws/State.lean ====
section
/-! SUPPORT. One lemma per field for each named update of the state. -/

namespace Sys2Proof.Machine

/-! ## respond -/

@[simp] theorem respond_config (c : Code) (d : Word) (s : State) : (respond c d s).config = s.config := rfl
@[simp] theorem respond_mode (c : Code) (d : Word) (s : State) : (respond c d s).mode = s.mode := rfl
@[simp] theorem respond_len (c : Code) (d : Word) (s : State) : (respond c d s).len = s.len := rfl
@[simp] theorem respond_rdptr (c : Code) (d : Word) (s : State) : (respond c d s).rdptr = s.rdptr := rfl
@[simp] theorem respond_ovf (c : Code) (d : Word) (s : State) : (respond c d s).ovf = s.ovf := rfl
@[simp] theorem respond_crc (c : Code) (d : Word) (s : State) : (respond c d s).crc = s.crc := rfl
@[simp] theorem respond_last (c : Code) (d : Word) (s : State) : (respond c d s).last = s.last := rfl
@[simp] theorem respond_sticky (c : Code) (d : Word) (s : State) : (respond c d s).sticky = s.sticky := rfl
@[simp] theorem respond_frame (c : Code) (d : Word) (s : State) : (respond c d s).frame = s.frame := rfl
@[simp] theorem respond_buf (c : Code) (d : Word) (s : State) : (respond c d s).buf = s.buf := rfl
@[simp] theorem respond_inputs (c : Code) (d : Word) (s : State) : (respond c d s).inputs = s.inputs := rfl
@[simp] theorem respond_responses (c : Code) (d : Word) (s : State) : (respond c d s).responses = s.responses ++ [respWord c d] := rfl

/-! ## succeed -/

@[simp] theorem succeed_config (d : Word) (s : State) : (succeed d s).config = s.config := rfl
@[simp] theorem succeed_mode (d : Word) (s : State) : (succeed d s).mode = s.mode := rfl
@[simp] theorem succeed_len (d : Word) (s : State) : (succeed d s).len = s.len := rfl
@[simp] theorem succeed_rdptr (d : Word) (s : State) : (succeed d s).rdptr = s.rdptr := rfl
@[simp] theorem succeed_ovf (d : Word) (s : State) : (succeed d s).ovf = s.ovf := rfl
@[simp] theorem succeed_crc (d : Word) (s : State) : (succeed d s).crc = s.crc := rfl
@[simp] theorem succeed_last (d : Word) (s : State) : (succeed d s).last = .ok := rfl
@[simp] theorem succeed_sticky (d : Word) (s : State) : (succeed d s).sticky = s.sticky := rfl
@[simp] theorem succeed_frame (d : Word) (s : State) : (succeed d s).frame = s.frame := rfl
@[simp] theorem succeed_buf (d : Word) (s : State) : (succeed d s).buf = s.buf := rfl
@[simp] theorem succeed_inputs (d : Word) (s : State) : (succeed d s).inputs = s.inputs := rfl
@[simp] theorem succeed_responses (d : Word) (s : State) : (succeed d s).responses = s.responses ++ [respWord .ok d] := rfl

/-! ## fail -/

@[simp] theorem fail_config (c : Code) (s : State) : (fail c s).config = s.config := rfl
@[simp] theorem fail_mode (c : Code) (s : State) : (fail c s).mode = s.mode := rfl
@[simp] theorem fail_len (c : Code) (s : State) : (fail c s).len = s.len := rfl
@[simp] theorem fail_rdptr (c : Code) (s : State) : (fail c s).rdptr = s.rdptr := rfl
@[simp] theorem fail_ovf (c : Code) (s : State) : (fail c s).ovf = s.ovf := rfl
@[simp] theorem fail_crc (c : Code) (s : State) : (fail c s).crc = s.crc := rfl
@[simp] theorem fail_last (c : Code) (s : State) : (fail c s).last = c := rfl
@[simp] theorem fail_sticky (c : Code) (s : State) : (fail c s).sticky = (s.sticky || isError c) := rfl
@[simp] theorem fail_frame (c : Code) (s : State) : (fail c s).frame = s.frame := rfl
@[simp] theorem fail_buf (c : Code) (s : State) : (fail c s).buf = s.buf := rfl
@[simp] theorem fail_inputs (c : Code) (s : State) : (fail c s).inputs = s.inputs := rfl
@[simp] theorem fail_responses (c : Code) (s : State) : (fail c s).responses = s.responses ++ [respWord c 0] := rfl

/-! ## frameFail -/

@[simp] theorem frameFail_config (c : Code) (s : State) : (frameFail c s).config = s.config := rfl
@[simp] theorem frameFail_mode (c : Code) (s : State) : (frameFail c s).mode = .idle := rfl
@[simp] theorem frameFail_len (c : Code) (s : State) : (frameFail c s).len = 0 := rfl
@[simp] theorem frameFail_rdptr (c : Code) (s : State) : (frameFail c s).rdptr = 0 := rfl
@[simp] theorem frameFail_ovf (c : Code) (s : State) : (frameFail c s).ovf = false := rfl
@[simp] theorem frameFail_crc (c : Code) (s : State) : (frameFail c s).crc = s.crc := rfl
@[simp] theorem frameFail_last (c : Code) (s : State) : (frameFail c s).last = c := rfl
@[simp] theorem frameFail_sticky (c : Code) (s : State) : (frameFail c s).sticky = true := rfl
@[simp] theorem frameFail_frame (c : Code) (s : State) : (frameFail c s).frame = c := rfl
@[simp] theorem frameFail_buf (c : Code) (s : State) : (frameFail c s).buf = s.buf := rfl
@[simp] theorem frameFail_inputs (c : Code) (s : State) : (frameFail c s).inputs = s.inputs := rfl
@[simp] theorem frameFail_responses (c : Code) (s : State) : (frameFail c s).responses = s.responses ++ [respWord c 0] := rfl

/-! ## applyReset -/

@[simp] theorem applyReset_config (s : State) : (applyReset s).config = s.config := rfl
@[simp] theorem applyReset_mode (s : State) : (applyReset s).mode = .idle := rfl
@[simp] theorem applyReset_len (s : State) : (applyReset s).len = 0 := rfl
@[simp] theorem applyReset_rdptr (s : State) : (applyReset s).rdptr = 0 := rfl
@[simp] theorem applyReset_ovf (s : State) : (applyReset s).ovf = false := rfl
@[simp] theorem applyReset_crc (s : State) : (applyReset s).crc = 0xFFFF := rfl
@[simp] theorem applyReset_last (s : State) : (applyReset s).last = .ok := rfl
@[simp] theorem applyReset_sticky (s : State) : (applyReset s).sticky = false := rfl
@[simp] theorem applyReset_frame (s : State) : (applyReset s).frame = .noVerdict := rfl
@[simp] theorem applyReset_buf (s : State) : (applyReset s).buf = [] := rfl
@[simp] theorem applyReset_inputs (s : State) : (applyReset s).inputs = s.inputs := rfl
@[simp] theorem applyReset_responses (s : State) : (applyReset s).responses = s.responses := rfl

end Sys2Proof.Machine
end

