-- ==== Sys2Proof/Laws/Ops.lean ====
section
/-! SUPPORT. One specification lemma for each shared operation. -/

namespace Sys2Proof.Machine

/-! ## The buffer -/

theorem bufRead_eq_ok {s : State} {i : Nat} {b : Byte} :
    bufRead s i = .ok b ↔ i < s.config.maxAdu ∧ s.buf.read i = some b := by
  unfold bufRead
  split
  · cases h : s.buf.read i <;> simp_all
  · simp_all

theorem bufWrite_eq_ok {s t : State} {i : Nat} {b : Byte} :
    bufWrite s i b = .ok t ↔ i < s.config.maxAdu ∧ t = { s with buf := s.buf.write i b } := by
  unfold bufWrite
  split <;> simp_all [eq_comm]

theorem bufWrite_of_lt {s : State} {i : Nat} (b : Byte) (h : i < s.config.maxAdu) :
    bufWrite s i b = .ok { s with buf := s.buf.write i b } := bufWrite_eq_ok.mpr ⟨h, rfl⟩

/-- Reading a stretch of the buffer succeeds exactly when every byte of it can be read, and gives
those bytes. -/
theorem bufBytes_eq_ok {s : State} {n i : Nat} {f : List Byte} :
    bufBytes s i n = .ok f ↔ f.length = n ∧ ∀ k < n, ∃ b, f[k]? = some b ∧ bufRead s (i + k) = .ok b := by
  induction n generalizing i f with
  | zero =>
    simp only [bufBytes, Except.ok.injEq]
    constructor
    · rintro rfl; simp
    · rintro ⟨h, -⟩; exact (List.length_eq_zero_iff.mp h).symm
  | succ n ih =>
    rw [bufBytes]
    constructor
    · intro h
      split at h
      · cases h
      · rename_i b hb
        split at h
        · cases h
        · rename_i bs hbs
          cases h
          obtain ⟨hl, hk⟩ := ih.mp hbs
          refine ⟨by simp [hl], fun k hk' => ?_⟩
          cases k with
          | zero => exact ⟨b, rfl, hb⟩
          | succ k =>
            obtain ⟨c, hc, hr⟩ := hk k (by omega)
            exact ⟨c, by simpa using hc, by rwa [show i + (k + 1) = i + 1 + k by omega]⟩
    · rintro ⟨hl, hk⟩
      cases f with
      | nil => simp at hl
      | cons b f =>
        obtain ⟨c, hc, hr⟩ := hk 0 (by omega)
        obtain rfl : b = c := by simpa using hc
        rw [Nat.add_zero] at hr
        have hrest : bufBytes s (i + 1) n = .ok f := ih.mpr ⟨by simpa using hl, fun k hk' => by
          obtain ⟨d, hd, hr'⟩ := hk (k + 1) (by omega)
          exact ⟨d, by simpa using hd, by rwa [show i + 1 + k = i + (k + 1) by omega]⟩⟩
        simp [hr, hrest]

/-- Reading the current frame gives the bytes the buffer holds. -/
theorem bufBytes_of_holds {s : State} {f : List Byte} (h : s.Holds f) :
    bufBytes s 0 s.len.toNat = .ok f := by
  obtain ⟨hl, hm, hr⟩ := h
  refine bufBytes_eq_ok.mpr ⟨hl, fun k hk => ?_⟩
  have hk' : k < f.length := by omega
  refine ⟨f[k], List.getElem?_eq_getElem hk', ?_⟩
  rw [Nat.zero_add]
  exact bufRead_eq_ok.mpr ⟨by omega, by rw [hr k hk', List.getElem?_eq_getElem hk']⟩

/-- If the current frame can be read, the buffer holds the bytes read. -/
theorem holds_of_bufBytes {s : State} {f : List Byte} (h : bufBytes s 0 s.len.toNat = .ok f)
    (hm : s.len.toNat ≤ s.config.maxAdu) : s.Holds f := by
  obtain ⟨hl, hk⟩ := bufBytes_eq_ok.mp h
  refine ⟨hl, by omega, fun k hk' => ?_⟩
  obtain ⟨b, hb, hr⟩ := hk k (by omega)
  rw [Nat.zero_add] at hr
  rw [(bufRead_eq_ok.mp hr).2, hb]

@[simp] theorem held_length (s : State) : s.held.length = s.len.toNat := by simp [State.held]

/-- Where every byte below `LEN` has been written, `held` is what the buffer holds. -/
theorem holds_held {s : State} (hw : ∀ i < s.len.toNat, (s.buf.read i).isSome = true)
    (hm : s.len.toNat ≤ s.config.maxAdu) : s.Holds s.held := by
  refine ⟨held_length s, by simpa using hm, fun k hk => ?_⟩
  have hk' : k < s.len.toNat := by simpa using hk
  obtain ⟨b, hb⟩ := Option.isSome_iff_exists.mp (hw k hk')
  simp [State.held, hk', hb]

/-- What the buffer holds is determined. -/
theorem held_of_holds {s : State} {f : List Byte} (h : s.Holds f) : s.held = f := by
  obtain ⟨hl, -, hr⟩ := h
  refine List.ext_getElem (by simp [hl]) fun k h₁ h₂ => ?_
  have := hr k h₂
  simp [State.held, this, List.getElem?_eq_getElem h₂]

/-! ## Outcomes -/

@[simp] theorem orFault_ok {α : Type} (a : α) (k : α → Result) : orFault (.ok a) k = k a := rfl

@[simp] theorem orFault_error {α : Type} (f : Fault) (k : α → Result) :
    orFault (.error f) k = .fault f := rfl

/-- A next state comes from the value. -/
theorem orFault_eq_next {α : Type} {x : Except Fault α} {k : α → Result} {t : State} :
    orFault x k = .next t ↔ ∃ a, x = .ok a ∧ k a = .next t := by
  cases x <;> simp [orFault]

theorem whenLegal_of_legal {i : Instr} {s : State} (own : Result) (h : legalIn i s.mode = true) :
    whenLegal i s own = own := if_pos h

theorem whenLegal_of_illegal {i : Instr} {s : State} (own : Result) (h : legalIn i s.mode = false) :
    whenLegal i s own = .next (fail .illegalSequence s) := by simp [whenLegal, h]

/-- Everything the mode check can answer. -/
theorem whenLegal_eq_next {i : Instr} {s t : State} {own : Result} :
    whenLegal i s own = .next t ↔
      (legalIn i s.mode = true ∧ own = .next t) ∨
        (legalIn i s.mode = false ∧ t = fail .illegalSequence s) := by
  unfold whenLegal
  cases h : legalIn i s.mode <;> simp [eq_comm]

theorem fail_eq_afterError {c : Code} (h : isError c = true) (s : State) : fail c s = afterError c s := by
  simp [fail, afterError, respond, h]

theorem frameFail_eq_afterFrameError (c : Code) (s : State) : frameFail c s = afterFrameError c s := rfl

/-! ## The step -/

theorem step_of_command {s : State} {w : Word} {rest : List Input} {i : Instr}
    (h : s.inputs = .cmd w :: rest) (hd : decode w = .ok i) :
    step s = exec i { s with inputs := rest } := by simp [step, takeInput, h, hd]

/-- Everything a step can do. -/
theorem step_cases {s t : State} (h : step s = .next t) :
    (s.inputs = [] ∧ t = s) ∨
    (∃ rest, s.inputs = .reset :: rest ∧ t = applyReset { s with inputs := rest }) ∨
    (∃ w rest i, s.inputs = .cmd w :: rest ∧ decode w = .ok i ∧
      exec i { s with inputs := rest } = .next t) ∨
    ∃ w rest r, s.inputs = .cmd w :: rest ∧ decode w = .error r ∧
      t = execReserved { s with inputs := rest } := by
  cases hi : s.inputs with
  | nil => left; simpa [step, takeInput, hi, eq_comm] using h
  | cons x rest =>
    right
    cases x with
    | reset => left; exact ⟨rest, rfl, by simpa [step, takeInput, hi, eq_comm] using h⟩
    | cmd w =>
      right
      cases hd : decode w with
      | ok i => left; exact ⟨w, rest, i, rfl, hd, by simpa [step, takeInput, hi, hd] using h⟩
      | error r =>
        right; exact ⟨w, rest, r, rfl, hd, by simpa [step, takeInput, hi, hd, eq_comm] using h⟩

end Sys2Proof.Machine
end

