-- ==== Sys2Proof/Laws/Exec.lean ====
section
/-! SUPPORT. For each command that can fail or fault, everything it can do when it answers a next state. -/

namespace Sys2Proof.Machine

theorem encStart_cases {a : Byte} {s t : State} (h : exec (.encStart a) s = .next t) :
    0 < s.config.maxAdu ∧
      t = succeed 0 { s with buf := s.buf.write 0 a, len := 1, rdptr := 0, ovf := false,
                             mode := .encOpen, frame := .noVerdict } := by
  obtain ⟨s', hw, ht⟩ := orFault_eq_next.mp h
  obtain ⟨hi, rfl⟩ := bufWrite_eq_ok.mp hw
  exact ⟨hi, (by simpa using ht.symm)⟩

theorem encByte_cases {d : Byte} {s t : State} (h : exec (.encByte d) s = .next t) :
    (s.mode ≠ .encOpen ∧ t = fail .illegalSequence s) ∨
    (s.mode = .encOpen ∧ s.len.toNat + 2 = s.config.maxAdu ∧ t = frameFail .encLength s) ∨
    (s.mode = .encOpen ∧ s.len.toNat + 2 ≠ s.config.maxAdu ∧ s.len.toNat < s.config.maxAdu ∧
      t = succeed 0 { s with buf := s.buf.write s.len.toNat d, len := s.len + 1 }) := by
  rcases whenLegal_eq_next.mp h with ⟨hl, h⟩ | ⟨hl, rfl⟩
  · right
    have hm : s.mode = .encOpen := by simpa [legalIn] using hl
    split at h
    · rename_i hf
      exact .inl ⟨hm, hf, (by simpa using h.symm)⟩
    · rename_i hf
      obtain ⟨s', hw, ht⟩ := orFault_eq_next.mp h
      obtain ⟨hi, rfl⟩ := bufWrite_eq_ok.mp hw
      exact .inr ⟨hm, hf, hi, (by simpa [appendIndex] using ht.symm)⟩
  · exact .inl ⟨by simpa [legalIn] using hl, rfl⟩

theorem encFinish_cases {s t : State} (h : exec .encFinish s = .next t) :
    (s.mode ≠ .encOpen ∧ t = fail .illegalSequence s) ∨
    (s.mode = .encOpen ∧ s.len.toNat < 2 ∧ t = frameFail .encLength s) ∨
    (s.mode = .encOpen ∧ 2 ≤ s.len.toNat ∧ s.len.toNat + 1 < s.config.maxAdu ∧ ∃ f, s.Holds f ∧
      t = succeed (crc16 f)
        { s with buf := (s.buf.write s.len.toNat (lo8 (crc16 f))).write (s.len.toNat + 1)
                   (hi8 (crc16 f)),
                 len := s.len + 2, crc := crc16 f, rdptr := 0, mode := .encDone, frame := .ok }) := by
  rcases whenLegal_eq_next.mp h with ⟨hl, h⟩ | ⟨hl, rfl⟩
  · right
    have hm : s.mode = .encOpen := by simpa [legalIn] using hl
    split at h
    · rename_i hf
      exact .inl ⟨hm, hf, (by simpa using h.symm)⟩
    · rename_i hf
      obtain ⟨f, hb, h⟩ := orFault_eq_next.mp h
      obtain ⟨s₁, hw₁, h⟩ := orFault_eq_next.mp h
      obtain ⟨hi₁, rfl⟩ := bufWrite_eq_ok.mp hw₁
      obtain ⟨s₂, hw₂, h⟩ := orFault_eq_next.mp h
      obtain ⟨hi₂, rfl⟩ := bufWrite_eq_ok.mp hw₂
      simp only [appendIndex] at hi₁ hi₂ h
      exact .inr ⟨hm, by omega, hi₂, f, holds_of_bufBytes hb (by omega), (by simpa using h.symm)⟩
  · exact .inl ⟨by simpa [legalIn] using hl, rfl⟩

theorem decByte_cases {d : Byte} {s t : State} (h : exec (.decByte d) s = .next t) :
    (s.mode ≠ .decOpen ∧ t = fail .illegalSequence s) ∨
    (s.mode = .decOpen ∧ s.len.toNat = s.config.maxAdu ∧ t = fail .frameLength { s with ovf := true }) ∨
    (s.mode = .decOpen ∧ s.len.toNat < s.config.maxAdu ∧
      t = succeed 0 { s with buf := s.buf.write s.len.toNat d, len := s.len + 1 }) := by
  rcases whenLegal_eq_next.mp h with ⟨hl, h⟩ | ⟨hl, rfl⟩
  · right
    have hm : s.mode = .decOpen := by simpa [legalIn] using hl
    split at h
    · rename_i hf
      exact .inl ⟨hm, hf, (by simpa using h.symm)⟩
    · rename_i hf
      obtain ⟨s', hw, ht⟩ := orFault_eq_next.mp h
      obtain ⟨hi, rfl⟩ := bufWrite_eq_ok.mp hw
      exact .inr ⟨hm, hi, (by simpa [appendIndex] using ht.symm)⟩
  · exact .inl ⟨by simpa [legalIn] using hl, rfl⟩

theorem decFinish_cases {s t : State} (h : exec .decFinish s = .next t) :
    (s.mode ≠ .decOpen ∧ t = fail .illegalSequence s) ∨
    (s.mode = .decOpen ∧ (s.ovf = true ∨ s.len.toNat < 4) ∧ t = frameFail .frameLength s) ∨
    (s.mode = .decOpen ∧ s.ovf = false ∧ 4 ≤ s.len.toNat ∧
      ∃ f, bufBytes s 0 s.len.toNat = .ok f ∧
        ((crcAccepts f = false ∧ t = frameFail .frameCrc { s with crc := crc16 (crcBody f) }) ∨
          (crcAccepts f = true ∧
            t = succeed (s.len - 3) { s with crc := crc16 (crcBody f), rdptr := 1, mode := .decDone,
                                             frame := .ok }))) := by
  rcases whenLegal_eq_next.mp h with ⟨hl, h⟩ | ⟨hl, rfl⟩
  · right
    have hm : s.mode = .decOpen := by simpa [legalIn] using hl
    split at h
    · rename_i ho
      exact .inl ⟨hm, .inl ho, (by simpa using h.symm)⟩
    · rename_i ho
      split at h
      · rename_i hf
        exact .inl ⟨hm, .inr hf, (by simpa using h.symm)⟩
      · rename_i hf
        obtain ⟨f, hb, h⟩ := orFault_eq_next.mp h
        refine .inr ⟨hm, by simpa using ho, by simpa [minAdu] using hf, f, hb, ?_⟩
        split at h
        · rename_i hc
          exact .inr ⟨hc, (by simpa using h.symm)⟩
        · rename_i hc
          exact .inl ⟨by simpa using hc, (by simpa using h.symm)⟩
  · exact .inl ⟨by simpa [legalIn] using hl, rfl⟩

theorem decTimeout_cases {s t : State} (h : exec .decTimeout s = .next t) :
    (s.mode ≠ .decOpen ∧ t = fail .illegalSequence s) ∨
    (s.mode = .decOpen ∧ t = frameFail .timeout s) := by
  rcases whenLegal_eq_next.mp h with ⟨hl, h⟩ | ⟨hl, rfl⟩
  · exact .inr ⟨by simpa [legalIn] using hl, (by simpa using h.symm)⟩
  · exact .inl ⟨by simpa [legalIn] using hl, rfl⟩

theorem rdByte_cases {s t : State} (h : exec .rdByte s = .next t) :
    (s.mode ≠ .encDone ∧ s.mode ≠ .decDone ∧ t = fail .illegalSequence s) ∨
    ((s.mode = .encDone ∨ s.mode = .decDone) ∧ ¬ s.rdptr < readEnd s ∧ t = fail .empty s) ∨
    ((s.mode = .encDone ∨ s.mode = .decDone) ∧ s.rdptr < readEnd s ∧
      ∃ b, bufRead s s.rdptr.toNat = .ok b ∧
        t = succeed (zext16 b) { s with rdptr := s.rdptr + 1 }) := by
  rcases whenLegal_eq_next.mp h with ⟨hl, h⟩ | ⟨hl, rfl⟩
  · right
    have hm : s.mode = .encDone ∨ s.mode = .decDone := by simpa [legalIn] using hl
    split at h
    · rename_i hr
      obtain ⟨b, hb, ht⟩ := orFault_eq_next.mp h
      exact .inr ⟨hm, hr, b, hb, (by simpa using ht.symm)⟩
    · rename_i hr
      exact .inl ⟨hm, hr, (by simpa using h.symm)⟩
  · have hm : s.mode ≠ .encDone ∧ s.mode ≠ .decDone := by simpa [legalIn] using hl
    exact .inl ⟨hm.1, hm.2, rfl⟩

theorem rdAddr_cases {s t : State} (h : exec .rdAddr s = .next t) :
    (s.mode ≠ .decDone ∧ t = fail .illegalSequence s) ∨
    (s.mode = .decDone ∧ ∃ b, bufRead s 0 = .ok b ∧ t = succeed (zext16 b) s) := by
  rcases whenLegal_eq_next.mp h with ⟨hl, h⟩ | ⟨hl, rfl⟩
  · obtain ⟨b, hb, ht⟩ := orFault_eq_next.mp h
    exact .inr ⟨by simpa [legalIn] using hl, b, hb, (by simpa using ht.symm)⟩
  · exact .inl ⟨by simpa [legalIn] using hl, rfl⟩

/-! ## All commands at once -/

/-- The rows of the mode table are the meanings' mode check. -/
theorem mem_legalModes (i : Instr) (m : Mode) : m ∈ legalModes i ↔ legalIn i m = true := by
  cases i <;> cases m <;> simp [legalModes, legalIn]

/-- What a command legal in its mode does when it answers a next state. -/
def OwnOutcome (i : Instr) (s t : State) : Prop :=
  match i with
  | .nop => t = respond .ok 0 s
  | .crcInit => t = succeed 0xFFFF { s with crc := 0xFFFF }
  | .crcByte d => t = succeed (crcStep s.crc d) { s with crc := crcStep s.crc d }
  | .crcRead => t = succeed s.crc s
  | .encStart a => 0 < s.config.maxAdu ∧
      t = succeed 0 { s with buf := s.buf.write 0 a, len := 1, rdptr := 0, ovf := false,
                             mode := .encOpen, frame := .noVerdict }
  | .encByte d => s.mode = .encOpen ∧
      ((s.len.toNat + 2 = s.config.maxAdu ∧ t = frameFail .encLength s) ∨
        (s.len.toNat + 2 ≠ s.config.maxAdu ∧ s.len.toNat < s.config.maxAdu ∧
          t = succeed 0 { s with buf := s.buf.write s.len.toNat d, len := s.len + 1 }))
  | .encFinish => s.mode = .encOpen ∧
      ((s.len.toNat < 2 ∧ t = frameFail .encLength s) ∨
        (2 ≤ s.len.toNat ∧ s.len.toNat + 1 < s.config.maxAdu ∧ ∃ f, s.Holds f ∧
          t = succeed (crc16 f)
            { s with buf := (s.buf.write s.len.toNat (lo8 (crc16 f))).write (s.len.toNat + 1)
                       (hi8 (crc16 f)),
                     len := s.len + 2, crc := crc16 f, rdptr := 0, mode := .encDone, frame := .ok }))
  | .decStart =>
      t = succeed 0 { s with len := 0, rdptr := 0, ovf := false, mode := .decOpen, frame := .noVerdict }
  | .decByte d => s.mode = .decOpen ∧
      ((s.len.toNat = s.config.maxAdu ∧ t = fail .frameLength { s with ovf := true }) ∨
        (s.len.toNat < s.config.maxAdu ∧
          t = succeed 0 { s with buf := s.buf.write s.len.toNat d, len := s.len + 1 }))
  | .decFinish => s.mode = .decOpen ∧
      (((s.ovf = true ∨ s.len.toNat < 4) ∧ t = frameFail .frameLength s) ∨
        (s.ovf = false ∧ 4 ≤ s.len.toNat ∧ ∃ f, bufBytes s 0 s.len.toNat = .ok f ∧
          ((crcAccepts f = false ∧ t = frameFail .frameCrc { s with crc := crc16 (crcBody f) }) ∨
            (crcAccepts f = true ∧
              t = succeed (s.len - 3) { s with crc := crc16 (crcBody f), rdptr := 1, mode := .decDone,
                                               frame := .ok }))))
  | .decTimeout => s.mode = .decOpen ∧ t = frameFail .timeout s
  | .rdByte => (s.mode = .encDone ∨ s.mode = .decDone) ∧
      ((¬ s.rdptr < readEnd s ∧ t = fail .empty s) ∨
        (s.rdptr < readEnd s ∧ ∃ b, bufRead s s.rdptr.toNat = .ok b ∧
          t = succeed (zext16 b) { s with rdptr := s.rdptr + 1 }))
  | .rdLen => t = succeed (shownLength s) s
  | .rdAddr => s.mode = .decDone ∧ ∃ b, bufRead s 0 = .ok b ∧ t = succeed (zext16 b) s
  | .rdStatus => t = respond .ok (statusWord s) s
  | .clrStatus => t = succeed 0 { s with sticky := false }
  | .abort =>
      t = succeed 0 { s with mode := .idle, len := 0, rdptr := 0, ovf := false, frame := .noVerdict }

/-- Everything a command can do when it answers a next state. -/
theorem exec_cases {i : Instr} {s t : State} (h : exec i s = .next t) :
    (legalIn i s.mode = false ∧ t = fail .illegalSequence s) ∨
      (legalIn i s.mode = true ∧ OwnOutcome i s t) := by
  cases i
  case encByte d =>
    have := encByte_cases h
    cases hm : s.mode <;> simp_all [legalIn, OwnOutcome]
  case decByte d =>
    have := decByte_cases h
    cases hm : s.mode <;> simp_all [legalIn, OwnOutcome]
  case encStart a => exact .inr ⟨rfl, encStart_cases h⟩
  case encFinish =>
    have := encFinish_cases h
    cases hm : s.mode <;> simp_all [legalIn, OwnOutcome]
  case decFinish =>
    have := decFinish_cases h
    cases hm : s.mode <;> simp_all [legalIn, OwnOutcome]
  case decTimeout =>
    have := decTimeout_cases h
    cases hm : s.mode <;> simp_all [legalIn, OwnOutcome]
  case rdByte =>
    have := rdByte_cases h
    cases hm : s.mode <;> simp_all [legalIn, OwnOutcome]
  case rdAddr =>
    have := rdAddr_cases h
    cases hm : s.mode <;> simp_all [legalIn, OwnOutcome]
  all_goals (cases h; exact .inr ⟨rfl, rfl⟩)

end Sys2Proof.Machine
end

