-- ==== Sys2Proof/Laws/PerInstr.lean ====
section
/-! SUPPORT. Per command: the fields of its encoded word (30_encoding.md R45, R46). -/

/-- The word of a command has its opcode at 15:8 and its ARG byte at 7:0, which is zero for a z8
command (R45, R46). -/
def Sys2Proof.Laws.EncodedFields.Statement (i : Sys2Proof.Instr) : Prop :=
  Sys2Proof.opField (Sys2Proof.encode i) = Sys2Proof.opcodeOf i ∧
  Sys2Proof.argField (Sys2Proof.encode i) = Sys2Proof.argOf i ∧
  (Sys2Proof.argFormOf i = .z8 → Sys2Proof.argOf i = 0)

namespace Sys2Proof.Laws.EncodedFields

theorem opField_cmdWord (op arg : Byte) : opField (cmdWord op arg) = op := by
  ext k hk
  simp only [opField, cmdWord, BitVec.getElem_extractLsb', BitVec.getLsbD_append]
  simp [hk]

theorem argField_cmdWord (op arg : Byte) : argField (cmdWord op arg) = arg := by
  ext k hk
  simp only [argField, cmdWord, BitVec.getElem_extractLsb', BitVec.getLsbD_append]
  simp [hk]

theorem statement_of_form {i : Instr} (h : argFormOf i = .z8 → argOf i = 0) : Statement i :=
  ⟨opField_cmdWord _ _, argField_cmdWord _ _, h⟩

theorem nop : Statement .nop := statement_of_form fun _ => rfl
theorem crcInit : Statement .crcInit := statement_of_form fun _ => rfl
theorem crcByte (d : Byte) : Statement (.crcByte d) := statement_of_form nofun
theorem crcRead : Statement .crcRead := statement_of_form fun _ => rfl
theorem encStart (a : Byte) : Statement (.encStart a) := statement_of_form nofun
theorem encByte (d : Byte) : Statement (.encByte d) := statement_of_form nofun
theorem encFinish : Statement .encFinish := statement_of_form fun _ => rfl
theorem decStart : Statement .decStart := statement_of_form fun _ => rfl
theorem decByte (d : Byte) : Statement (.decByte d) := statement_of_form nofun
theorem decFinish : Statement .decFinish := statement_of_form fun _ => rfl
theorem decTimeout : Statement .decTimeout := statement_of_form fun _ => rfl
theorem rdByte : Statement .rdByte := statement_of_form fun _ => rfl
theorem rdLen : Statement .rdLen := statement_of_form fun _ => rfl
theorem rdAddr : Statement .rdAddr := statement_of_form fun _ => rfl
theorem rdStatus : Statement .rdStatus := statement_of_form fun _ => rfl
theorem clrStatus : Statement .clrStatus := statement_of_form fun _ => rfl
theorem abort : Statement .abort := statement_of_form fun _ => rfl

end Sys2Proof.Laws.EncodedFields
end

