-- ==== Sys2Proof/Tests/Slice0.lean ====
section
/-! SUPPORT. Tests. Expected values come from the spec: the command words from 30_encoding.md R48, everything
else from the tables of 95_test_vectors.md named at each group. The last part shows, for every obligation with
hypotheses, states and operands that meet them. -/

namespace Sys2Proof.Tests
open Sys2Proof Sys2Proof.Machine

/-! ## Helpers -/

/-- The bytes of a frame as cells, from the given index on. -/
def cells : Nat → List Byte → Memory
  | _, [] => []
  | i, b :: bs => (i, b) :: cells (i + 1) bs

/-- A framer in the given mode whose buffer holds the frame, everything else as after reset. -/
def holding (m : Mode) (f : List Byte) : State :=
  { State.reset with mode := m, len := BitVec.ofNat 16 f.length, buf := cells 0 f }

/-- The same, with a result ready to be read. -/
def ready (m : Mode) (rd : Word) (f : List Byte) : State :=
  { holding m f with rdptr := rd, frame := .ok }

/-- The same, with the smallest buffer. -/
def small (s : State) : State := { s with config := { maxAdu := 143 } }

/-- The host has just given these inputs. -/
def given (ins : List Input) (s : State) : State := { s with inputs := ins }

/-- What the field function sees after a meaning or a step answered a next state. -/
def after {α : Type} (r : Result) (get : State → α) : Option α :=
  match r with
  | .next t => some (get t)
  | .fault _ => none
  | .refused _ => none

/-- A next state, and what the field function sees in it. -/
theorem next_of_after {α : Type} {r : Result} {get : State → α} {a : α} (h : after r get = some a) :
    ∃ t, r = .next t ∧ get t = a := by
  cases r with
  | next t => exact ⟨t, rfl, by simpa [after] using h⟩
  | fault f => cases h
  | refused f => cases h

/-- A next state. -/
theorem next_of_mode {r : Result} {m : Mode} (h : after r State.mode = some m) : ∃ t, r = .next t := by
  obtain ⟨t, ht, -⟩ := next_of_after h
  exact ⟨t, ht⟩

/-- The setAuto request with its CRC (95 section 2.3). -/
def setAuto : List Byte := [0x01, 0x42, 0x01, 0x03, 0x00, 0x00, 0x88, 0x39]

/-- The Write Passive Register response with its CRC (95 section 2.3). -/
def writeOk : List Byte := [0x01, 0x42, 0x02, 0x00, 0x00, 0xAC, 0x78]

/-! ## Ill-formed terms are refused (00_scope.md R7, 30_encoding.md R50, 41_encoder.md R65) -/

theorem test_config_too_small_refused : Config.wf { maxAdu := 142 } = false := by decide
theorem test_config_too_large_refused : Config.wf { maxAdu := 65536 } = false := by decide
theorem test_config_bounds_accepted :
    Config.wf { maxAdu := 143 } = true ∧ Config.wf { maxAdu := 65535 } = true := by decide
theorem test_word_nonzero_arg_refused : wordWf 0x0001 = false ∧ wordWf 0x3F80 = false := by decide
theorem test_word_reserved_opcode_refused : wordWf 0x0400 = false ∧ wordWf 0xFFFF = false := by decide
theorem test_pdu_empty_refused : pduWf { maxAdu := 143 } [] = false := by decide
theorem test_pdu_too_long_refused :
    pduWf { maxAdu := 143 } (List.replicate 141 0) = false ∧
      pduWf { maxAdu := 143 } (List.replicate 140 0) = true := by decide +kernel

/-! ## Decoding, bit by bit from R45 and R48 -/

theorem test_decode_nop : decode 0b00000000_00000000 = .ok .nop := by decide
theorem test_decode_crcInit : decode 0b00000001_00000000 = .ok .crcInit := by decide
theorem test_decode_crcByte : decode 0b00000010_10110001 = .ok (.crcByte 0b10110001) := by decide
theorem test_decode_crcRead : decode 0b00000011_00000000 = .ok .crcRead := by decide
theorem test_decode_encStart : decode 0b00010000_11110111 = .ok (.encStart 0b11110111) := by decide
theorem test_decode_encByte : decode 0b00010001_01000010 = .ok (.encByte 0b01000010) := by decide
theorem test_decode_encFinish : decode 0b00010010_00000000 = .ok .encFinish := by decide
theorem test_decode_decStart : decode 0b00100000_00000000 = .ok .decStart := by decide
theorem test_decode_decByte : decode 0b00100001_10000001 = .ok (.decByte 0b10000001) := by decide
theorem test_decode_decFinish : decode 0b00100010_00000000 = .ok .decFinish := by decide
theorem test_decode_decTimeout : decode 0b00100011_00000000 = .ok .decTimeout := by decide
theorem test_decode_rdByte : decode 0b00110000_00000000 = .ok .rdByte := by decide
theorem test_decode_rdLen : decode 0b00110001_00000000 = .ok .rdLen := by decide
theorem test_decode_rdAddr : decode 0b00110010_00000000 = .ok .rdAddr := by decide
theorem test_decode_rdStatus : decode 0b00110011_00000000 = .ok .rdStatus := by decide
theorem test_decode_clrStatus : decode 0b00111110_00000000 = .ok .clrStatus := by decide
theorem test_decode_abort : decode 0b00111111_00000000 = .ok .abort := by decide

/-! ## The commands, one step each -/

/-- 95 section 2.5, the row NOP. -/
theorem test_nop_keeps_last :
    after (exec .nop { State.reset with last := .frameCrc }) (fun t => (t.last, t.responses)) =
      some (.frameCrc, [0x00000]) := by decide

/-- 95 section 2.5, the row 0001. -/
theorem test_nop_with_arg_is_illegal :
    after (step (given [.cmd 0x0001] State.reset)) (fun t => (t.last, t.sticky, t.responses)) =
      some (.illegalCommand, true, [0x50000]) := by decide

/-- 95 section 2.1. -/
theorem test_crcInit :
    after (exec .crcInit { State.reset with crc := 0x1234 }) (fun t => (t.crc, t.last, t.responses)) =
      some (0xFFFF, .ok, [0x0FFFF]) := by decide

/-- 95 section 2.1, the row in ENC_OPEN: the open frame is untouched. -/
theorem test_crcByte_in_open_frame :
    after (exec (.crcByte 0x00) { holding .encOpen [0x01] with crc := 0x1234 })
        (fun t => (t.crc, t.mode, t.held, t.responses)) =
      some (0xD713, .encOpen, [0x01], [0x0D713]) := by decide

/-- 95 section 2.1, the row `c = 0x1234, b = 0x56`. -/
theorem test_crcByte_step : crcStep 0x1234 0x56 = 0xE993 := by decide

/-- 95 section 2.1. -/
theorem test_crcRead :
    after (exec .crcRead { State.reset with crc := 0x4B37 }) (fun t => (t.crc, t.responses)) =
      some (0x4B37, [0x04B37]) := by decide

/-- 95 section 2.2, the first row. -/
theorem test_encStart :
    after (exec (.encStart 0x01) State.reset) (fun t => (t.mode, t.len, t.buf.read 0, t.responses)) =
      some (.encOpen, 1, some 0x01, [0x00000]) := by decide

/-- 95 section 2.2, `MAX_ADU = 143`, the 141st ENC_BYTE. -/
theorem test_encByte_past_capacity :
    after (exec (.encByte 0x00) (small (holding .encOpen (List.replicate 141 0x00))))
        (fun t => (t.mode, t.frame, t.sticky, t.responses)) =
      some (.idle, .encLength, true, [0x40000]) := by decide +kernel

/-- 95 section 2.2, the row IDLE. -/
theorem test_encByte_in_idle :
    after (exec (.encByte 0x42) State.reset) (fun t => (t.last, t.sticky, t.buf, t.responses)) =
      some (.illegalSequence, true, [], [0x60000]) := by decide

/-- 95 section 2.2, the second row. -/
theorem test_encFinish :
    after (exec .encFinish (holding .encOpen [0x01, 0x42, 0x01, 0x03, 0x00, 0x00]))
        (fun t => (t.mode, t.len, t.held, t.crc, t.responses)) =
      some (.encDone, 8, setAuto, 0x3988, [0x03988]) := by decide +kernel

/-- 95 section 2.2, the row of the empty PDU. -/
theorem test_encFinish_empty_pdu :
    after (exec .encFinish (holding .encOpen [0x01])) (fun t => (t.mode, t.len, t.frame, t.responses)) =
      some (.idle, 0, .encLength, [0x40000]) := by decide

/-- 95 section 2.4, the row ENC_DONE. -/
theorem test_decStart_discards_adu :
    after (exec .decStart (ready .encDone 0 setAuto)) (fun t => (t.mode, t.len, t.responses)) =
      some (.decOpen, 0, [0x00000]) := by decide

/-- 95 section 2.4, `MAX_ADU = 143`, the 144th DEC_BYTE. -/
theorem test_decByte_past_capacity :
    after (exec (.decByte 0x00) (small (holding .decOpen (List.replicate 143 0x00))))
        (fun t => (t.mode, t.ovf, t.len, t.responses)) =
      some (.decOpen, true, 143, [0x20000]) := by decide +kernel

/-- 95 program P2, the third DEC_BYTE. -/
theorem test_decByte_appends :
    after (exec (.decByte 0x02) (holding .decOpen [0x01, 0x42])) (fun t => (t.len, t.held, t.responses)) =
      some (3, [0x01, 0x42, 0x02], [0x00000]) := by decide

/-- 95 section 2.4, the first row. -/
theorem test_decFinish_accepts :
    after (exec .decFinish (holding .decOpen writeOk)) (fun t => (t.mode, t.rdptr, t.frame, t.responses)) =
      some (.decDone, 1, .ok, [0x00004]) := by decide +kernel

/-- 95 section 2.4, the row with the high CRC byte wrong. -/
theorem test_decFinish_refuses :
    after (exec .decFinish (holding .decOpen [0x01, 0x03, 0x40, 0x20]))
        (fun t => (t.mode, t.frame, t.crc, t.responses)) =
      some (.idle, .frameCrc, 0x2140, [0x10000]) := by decide +kernel

/-- 95 section 2.4, the complete frame that timed out. -/
theorem test_decTimeout_of_complete_frame :
    after (exec .decTimeout (holding .decOpen writeOk)) (fun t => (t.mode, t.frame, t.sticky, t.responses)) =
      some (.idle, .timeout, true, [0x30000]) := by decide

/-- 95 section 2.5, `RDPTR = 6` in ENC_DONE. -/
theorem test_rdByte_of_adu :
    after (exec .rdByte (ready .encDone 6 setAuto)) (fun t => (t.rdptr, t.responses)) =
      some (7, [0x00088]) := by decide

/-- 95 section 2.5, `RDPTR = 5` in DEC_DONE: the CRC bytes are never returned. -/
theorem test_rdByte_stops_before_crc :
    after (exec .rdByte (ready .decDone 5 writeOk)) (fun t => (t.last, t.sticky, t.rdptr, t.responses)) =
      some (.empty, false, 5, [0x70000]) := by decide

/-- 95 section 2.5, `LEN = 7` in DEC_DONE. -/
theorem test_rdLen_of_pdu :
    after (exec .rdLen (ready .decDone 1 writeOk)) (fun t => t.responses) = some [0x00004] := by decide

/-- 95 section 2.5. -/
theorem test_rdAddr :
    after (exec .rdAddr (ready .decDone 1 writeOk)) (fun t => (t.rdptr, t.responses)) =
      some (1, [0x00001]) := by decide

/-- 95 section 2.5, the row ENC_DONE. -/
theorem test_rdAddr_of_adu :
    after (exec .rdAddr (ready .encDone 0 setAuto)) (fun t => t.responses) = some [0x60000] := by decide

/-- 95 section 2.5, the row reset. -/
theorem test_rdStatus_after_reset :
    after (exec .rdStatus State.reset) (fun t => (t.last, t.responses)) = some (.ok, [0x00F00]) := by decide

/-- 95 section 2.5: `STATUS = 0x0181` becomes `0x0100`. -/
theorem test_clrStatus :
    after (exec .clrStatus { State.reset with last := .frameCrc, sticky := true, frame := .frameCrc })
        (fun t => (statusWord t, t.responses)) =
      some (0x0100, [0x00000]) := by decide

/-- 95 section 2.5. -/
theorem test_abort :
    after (exec .abort (holding .decOpen [0x01, 0x03, 0x02])) (fun t => (t.mode, t.len, t.frame, t.responses)) =
      some (.idle, 0, .noVerdict, [0x00000]) := by decide

/-- 95 section 2.5, the last row: ILLEGAL_COMMAND wins over ILLEGAL_SEQUENCE. -/
theorem test_reserved_before_sequence :
    after (step (given [.cmd 0x3001] State.reset)) (fun t => t.responses) = some [0x50000] := by decide

/-- 95 section 2.1: the check value of `123456789`. -/
theorem test_crc16_check_value :
    crc16 [0x31, 0x32, 0x33, 0x34, 0x35, 0x36, 0x37, 0x38, 0x39] = 0x4B37 := by decide +kernel

/-- 95 section 2.3: the setAuto request, and 2.4: the response decodes to its PDU. -/
theorem test_codec :
    aduEncode 0x01 [0x42, 0x01, 0x03, 0x00, 0x00] = setAuto ∧
      aduDecode writeOk = .ok (0x01, [0x42, 0x02, 0x00, 0x00]) := by decide +kernel

/-- R56: the table form at the row `c = 0x1234, b = 0x56` of 95 section 2.1. -/
theorem test_crc_by_table : crcStepByTable 0x1234 0x56 = 0xE993 := by decide

/-- The host's two questions on one row: the word of ENC_BYTE 0x42. -/
theorem test_table_word :
    decodeTableWord 16 0x1142 = some (.encByte 0x42) ∧
      after (step (State.reset.withFetchWord 16 0x1142)) (fun t => t.responses) = some [0x60000] := by decide

/-! ## Witnesses: what the obligations assume can be met -/

/-- An encoded ADU, ready to be read. -/
def encoded : State := ready .encDone 0 setAuto

/-- A received frame, accepted. -/
def decoded : State := ready .decDone 1 writeOk

/-- An encode frame that is full up to its CRC, in the smallest buffer. -/
def encFull : State := small (holding .encOpen (List.replicate 141 0x00))

/-- A received frame that fills the smallest buffer. -/
def decFull : State := small (holding .decOpen (List.replicate 143 0x00))

/-- A failed frame. -/
def failed : State := frameFail .frameCrc (holding .decOpen [0x01, 0x03, 0x40, 0x20])

theorem inv_reset : State.reset.Inv := by constructor <;> decide +kernel
theorem inv_encOpen : (holding .encOpen [0x01, 0x42]).Inv := by constructor <;> decide +kernel
theorem inv_encFull : encFull.Inv := by constructor <;> decide +kernel
theorem inv_encoded : encoded.Inv := by constructor <;> decide +kernel
theorem inv_decOpen : (holding .decOpen [0x01, 0x03]).Inv := by constructor <;> decide +kernel
theorem inv_decFull : decFull.Inv := by constructor <;> decide +kernel
theorem inv_decOvf : State.Inv { decFull with ovf := true } := by constructor <;> decide +kernel
theorem inv_decoded : decoded.Inv := by constructor <;> decide +kernel
theorem inv_failed : failed.Inv := by constructor <;> decide +kernel

/-- The hypotheses of `NonzeroArgIsReserved op`, at both ends of the range of `ARG`. -/
abbrev ReservedGiven (op : Byte) : Prop :=
  (0x01 : Byte) ≠ 0 ∧ (given [.cmd (cmdWord op 0x01)] State.reset).inputs = .cmd (cmdWord op 0x01) :: [] ∧
    (0xFF : Byte) ≠ 0 ∧ (given [.cmd (cmdWord op 0xFF)] encoded).inputs = .cmd (cmdWord op 0xFF) :: []

theorem witness_DecodeAndEncodeAreInverse :
    decode 0x11FF = .ok (.encByte 0xFF) ∧ decode 0x0000 = .ok .nop := by decide

theorem witness_OpcodeMapDecodes :
    opRow "ENC_BYTE" .d8 0x1100 ∈ opcodeMap ∧ (0x11FF : Word) &&& 0xFF00 = 0x1100 ∧
      opRow "ABORT" .z8 0x3F00 ∈ opcodeMap ∧ (0x3F00 : Word) &&& 0xFFFF = 0x3F00 := by decide

theorem witness_ReservedEncodingsFailAsIllegalCommand :
    (given [.cmd 0x0400] State.reset).inputs = .cmd 0x0400 :: [] ∧
      decode 0x0400 = .error (.reservedOpcode 0x04) ∧ decode 0xFFFF = .error (.reservedOpcode 0xFF) ∧
      decode 0x0001 = .error (.nonzeroArg 0x00 0x01) ∧ decode 0x3FFF = .error (.nonzeroArg 0x3F 0xFF) := by
  decide

theorem witness_StepRunsTheDecodedCommand :
    ((given [.cmd 0x1142] encFull).inputs = .cmd 0x1142 :: [] ∧ decode 0x1142 = .ok (.encByte 0x42)) ∧
      State.reset.inputs = [] ∧ (given [.reset, .cmd 0x0000] encoded).inputs = .reset :: [.cmd 0x0000] := by
  decide

theorem witness_CommandsOutOfSequenceFail :
    State.reset.mode ∉ legalModes .rdAddr ∧ decoded.mode ∈ legalModes .rdAddr ∧
      ∃ t, exec .rdAddr decoded = .next t := ⟨by decide, by decide, _, rfl⟩

theorem witness_FirstFailingCheckDecides :
    ((given [.cmd 0x3001] State.reset).inputs = .cmd 0x3001 :: [] ∧
      decode 0x3001 = .error (.nonzeroArg 0x30 0x01)) ∧
    ((given [.cmd 0x3000] State.reset).inputs = .cmd 0x3000 :: [] ∧ decode 0x3000 = .ok .rdByte ∧
      (given [.cmd 0x3000] State.reset).mode ∉ legalModes .rdByte) ∧
    (argFormOf .abort = .z8 ∧ (0x80 : Byte) ≠ 0) ∧
    (decFull.mode = .decOpen ∧ State.ovf { decFull with ovf := true } = true) ∧
    ((holding .decOpen [1, 2, 3]).mode = .decOpen ∧ (holding .decOpen [1, 2, 3]).len.toNat < 4) ∧
    ((holding .decOpen [0x01, 0x03, 0x40, 0x20]).mode = .decOpen ∧
      (holding .decOpen [0x01, 0x03, 0x40, 0x20]).ovf = false ∧
      (holding .decOpen [0x01, 0x03, 0x40, 0x20]).Holds [0x01, 0x03, 0x40, 0x20] ∧
      crc16 [0x01, 0x03] ≠ transmittedCrc [0x01, 0x03, 0x40, 0x20]) := by decide +kernel

theorem witness_NopDoesNothing : ReservedGiven 0x00 := by decide

theorem witness_CrcInitSetsTheInitialValue :
    ReservedGiven 0x01 ∧ ∃ t, exec .crcInit encoded = .next t := ⟨by decide, _, rfl⟩

theorem witness_CrcReadReturnsTheAccumulator : ReservedGiven 0x03 := by decide

theorem witness_EncStartOpensAnAdu : encoded.config.wf = true ∧ encFull.config.wf = true := by decide

theorem witness_EncByteAppendsOrFails :
    State.reset.mode ∉ [Mode.encOpen] ∧ (encFull.mode = .encOpen ∧ encFull.len.toNat + 2 = encFull.config.maxAdu) ∧
    ((holding .encOpen [0x01]).mode = .encOpen ∧
      (holding .encOpen [0x01]).len.toNat + 2 < (holding .encOpen [0x01]).config.maxAdu) ∧
    (small (holding .encOpen (List.replicate 140 0x00))).len.toNat + 2 < encFull.config.maxAdu := by
  decide +kernel

theorem witness_EncFinishAppendsTheCrc :
    ReservedGiven 0x12 ∧ encoded.mode ∉ [Mode.encOpen] ∧
    ((holding .encOpen [0x01]).mode = .encOpen ∧ (holding .encOpen [0x01]).len.toNat < 2) ∧
    ((holding .encOpen [0x01, 0x42]).mode = .encOpen ∧
      (holding .encOpen [0x01, 0x42]).Holds [0x01, 0x42]) ∧
    (encFull.mode = .encOpen ∧ encFull.Holds (List.replicate 141 0x00) ∧
      (List.replicate 141 (0x00 : Byte)).length + 2 ≤ encFull.config.maxAdu) := by decide +kernel

theorem witness_EncFinishAppendsTheCrc_inv : encFull.Inv ∧ encFull.mode = .encOpen :=
  ⟨inv_encFull, by decide⟩

theorem witness_DecStartOpensAReceivedFrame : ReservedGiven 0x20 := by decide

theorem witness_DecByteAppendsOrDrops :
    State.reset.mode ∉ [Mode.decOpen] ∧ (decFull.mode = .decOpen ∧ decFull.len.toNat = decFull.config.maxAdu) ∧
    State.ovf { decFull with ovf := true } = true ∧
    ((small (holding .decOpen (List.replicate 142 0x00))).mode = .decOpen ∧
      (small (holding .decOpen (List.replicate 142 0x00))).len.toNat < decFull.config.maxAdu) := by
  decide +kernel

theorem witness_DecFinishChecksTheFrame :
    ReservedGiven 0x22 ∧ State.reset.mode ∉ [Mode.decOpen] ∧
    (decFull.mode = .decOpen ∧ State.ovf { decFull with ovf := true } = true) ∧
    ((holding .decOpen [1, 2, 3]).mode = .decOpen ∧ (holding .decOpen [1, 2, 3]).len.toNat < 4) ∧
    ((holding .decOpen [0x01, 0x03, 0x40, 0x20]).ovf = false ∧
      (holding .decOpen [0x01, 0x03, 0x40, 0x20]).Holds [0x01, 0x03, 0x40, 0x20] ∧
      crc16 [0x01, 0x03] ≠ (0x20 : Byte) ++ (0x40 : Byte)) ∧
    ((holding .decOpen [0x01, 0x03, 0x40, 0x21]).mode = .decOpen ∧
      (holding .decOpen [0x01, 0x03, 0x40, 0x21]).Holds [0x01, 0x03, 0x40, 0x21] ∧
      crc16 [0x01, 0x03] = (0x21 : Byte) ++ (0x40 : Byte)) := by decide +kernel

theorem witness_DecTimeoutEndsTheFrame :
    ReservedGiven 0x23 ∧ decoded.mode ∉ [Mode.decOpen] ∧ (holding .decOpen []).mode = .decOpen := by decide

theorem witness_RdByteReturnsTheNextByte :
    ReservedGiven 0x30 ∧ State.reset.mode ∉ [Mode.encDone, .decDone] ∧
    (State.Holds { encoded with rdptr := 7 } setAuto ∧ setAuto[7]? = some 0x39 ∧ encoded.mode = .encDone) ∧
    (State.Holds { decoded with rdptr := 4 } writeOk ∧ writeOk[4]? = some 0x00 ∧ decoded.mode = .decDone ∧
      4 + 2 < writeOk.length) ∧
    encoded.len.toNat ≤ (State.rdptr { encoded with rdptr := 8 }).toNat ∧
    (2 ≤ decoded.len.toNat ∧ decoded.len.toNat ≤ (5 : Word).toNat + 2) := by decide

theorem witness_RdByteReturnsTheNextByte_twice :
    ∃ t, exec .rdByte { decoded with rdptr := 5 } = .next t := ⟨_, rfl⟩

theorem witness_RdLenReturnsTheLength :
    ReservedGiven 0x31 ∧ State.reset.mode = .idle ∧
    encFull.mode ∈ [Mode.encOpen, .encDone, .decOpen] ∧ encoded.mode ∈ [Mode.encOpen, .encDone, .decOpen] ∧
    decFull.mode ∈ [Mode.encOpen, .encDone, .decOpen] ∧ decoded.mode = .decDone ∧ decoded.len - 3 = 4 := by
  decide

theorem witness_RdAddrReturnsTheAddress :
    ReservedGiven 0x32 ∧ encoded.mode ∉ [Mode.decDone] ∧ decoded.mode = .decDone ∧ decoded.Holds writeOk ∧
      writeOk[0]? = some 0x01 := by decide

theorem witness_RdStatusReturnsTheView :
    ReservedGiven 0x33 ∧ ∃ t, exec .rdStatus decoded = .next t := ⟨by decide, _, rfl⟩

theorem witness_ClrStatusClearsSticky : ReservedGiven 0x3E := by decide

theorem witness_AbortAbandonsTheFrame : ReservedGiven 0x3F := by decide

theorem witness_OwnCrcIsTheOnlyZeroResidue :
    crc16 setAuto = 0x0000 ∧ 2 ≤ setAuto.length ∧ crc16 [0xFF, 0xFF] = 0x0000 := by decide +kernel

theorem witness_EverySingleByteCorruptionIsDetected :
    4 ≤ writeOk.length ∧ 6 < writeOk.length ∧ writeOk[0]? ≠ some 0x02 ∧ writeOk[6]? ≠ some 0x79 ∧
      crcAccepts writeOk = true := by decide +kernel

theorem witness_ResetEventRestoresEveryElement :
    (given [.reset] encoded).inputs = .reset :: [] ∧ ∃ t, exec .abort encoded = .next t :=
  ⟨by decide, _, rfl⟩

theorem witness_ResetMeetsTheInvariant :
    Config.wf { maxAdu := 143 } = true ∧ Config.wf { maxAdu := 65535 } = true := by decide

theorem witness_EveryStepKeepsTheInvariant :
    State.Inv (given [.cmd 0x1200] encFull) ∧ ∃ t, step (given [.cmd 0x1200] encFull) = .next t :=
  ⟨by constructor <;> decide +kernel, next_of_mode (m := .encDone) (by decide +kernel)⟩

theorem witness_TheFramerNeverStops :
    State.reset.Inv ∧ encFull.Inv ∧ encoded.Inv ∧ decFull.Inv ∧ decoded.Inv ∧ failed.Inv :=
  ⟨inv_reset, inv_encFull, inv_encoded, inv_decFull, inv_decoded, inv_failed⟩

theorem witness_EveryRunFromResetIsSafe : Config.wf { maxAdu := 143 } = true ∧ Config.default.wf = true := by
  decide

theorem witness_StatusViewHasTheSpecLayout : ∃ t, exec .clrStatus failed = .next t := ⟨_, rfl⟩

theorem witness_ModeIsWrittenOnlyByItsCommands :
    (∃ t, exec .rdByte encoded = .next t) ∧ Instr.rdByte ∉ [Instr.encFinish, .decStart, .decFinish, .decTimeout,
      .abort] ∧ (given [.cmd 0x4000] encoded).inputs = .cmd 0x4000 :: [] ∧
      decode 0x4000 = .error (.reservedOpcode 0x40) ∧ ∃ t, step (given [.cmd 0x4000] encoded) = .next t :=
  ⟨⟨_, rfl⟩, by decide, by decide, by decide, _, rfl⟩

theorem witness_LenGrowsOnlyByAppending :
    (encFull.Inv ∧ ∃ t, exec .encFinish encFull = .next t) ∧
      (holding .decOpen [0x01, 0x03]).Inv ∧ ∃ t, exec (.decByte 0x40) (holding .decOpen [0x01, 0x03]) = .next t :=
  ⟨⟨inv_encFull, next_of_mode (m := .encDone) (by decide +kernel)⟩, inv_decOpen, _, rfl⟩

theorem witness_RdptrMovesOnlyByReading :
    (encoded.Inv ∧ ∃ t, exec .rdByte encoded = .next t) ∧ decoded.Inv ∧ (∃ t, exec .rdByte decoded = .next t) ∧
      (holding .encOpen [0x01, 0x42]).Inv ∧
      ∃ t, exec .encFinish (holding .encOpen [0x01, 0x42]) = .next t ∧ t.mode = .encDone :=
  ⟨⟨inv_encoded, _, rfl⟩, inv_decoded, ⟨_, rfl⟩, inv_encOpen, next_of_after (by decide +kernel)⟩

theorem witness_OvfIsSetOnlyByADroppedByte :
    (∃ t, exec (.decByte 0x00) decFull = .next t ∧ decFull.ovf = false ∧ t.ovf = true) ∧
    (∃ t, exec .decStart State.reset = .next t) ∧
    (∃ t, exec .decTimeout decFull = .next t ∧ t.mode = .idle ∧ decFull.mode ≠ .idle) ∧
    (∃ t, exec .decFinish { decFull with ovf := true } = .next t ∧ t.ovf = false) ∧
    (∃ t, exec .rdByte encoded = .next t) ∧ decFull.mode = .decOpen ∧ encoded.Inv ∧ encoded.mode ≠ .decOpen :=
  ⟨by
    obtain ⟨t, ht, ho⟩ := next_of_after (show after (exec (.decByte 0x00) decFull) State.ovf = some true by
      decide +kernel)
    exact ⟨t, ht, rfl, ho⟩, ⟨_, rfl⟩, ⟨_, rfl, rfl, by decide⟩, next_of_after (by decide +kernel), ⟨_, rfl⟩, rfl,
    inv_encoded, by decide⟩

theorem witness_CrcHasItsWritersAndReaders :
    (∃ t, exec .rdByte encoded = .next t) ∧
    (∃ t, exec .encFinish (holding .encOpen [0x01]) = .next t ∧ t.frame = .encLength) ∧
    (∃ t, exec .decFinish (holding .decOpen [1, 2, 3]) = .next t ∧ t.frame = .frameLength) ∧
    (∃ t, exec .encFinish encoded = .next t ∧ t.mode = encoded.mode) ∧
    (holding .encOpen [0x01, 0x42]).mode ∈ legalModes .encFinish ∧
    ∃ t, exec .encFinish (holding .encOpen [0x01, 0x42]) = .next t ∧ t.frame ∈ [Code.ok, .frameCrc] :=
  ⟨⟨_, rfl⟩, ⟨_, rfl, rfl⟩, ⟨_, rfl, rfl⟩, ⟨_, rfl, rfl⟩, by decide, by
    obtain ⟨t, ht, hf⟩ := next_of_after
      (show after (exec .encFinish (holding .encOpen [0x01, 0x42])) State.frame = some .ok by decide +kernel)
    exact ⟨t, ht, by simp [hf]⟩⟩

/-- The frame `01 03` with and without old bytes above `LEN`, DEC_FINISH to come. -/
theorem witness_BytesOutsideTheFrameAreNeverObservable :
    State.Inv (given [.cmd 0x2200] (holding .decOpen [0x01, 0x03])) ∧
    State.Inv { given [.cmd 0x2200] (holding .decOpen [0x01, 0x03]) with
                buf := [(0, 0x01), (1, 0x03), (2, 0x99), (9, 0x00)] } ∧
    SameBelowLen (given [.cmd 0x2200] (holding .decOpen [0x01, 0x03]))
      { given [.cmd 0x2200] (holding .decOpen [0x01, 0x03]) with
        buf := [(0, 0x01), (1, 0x03), (2, 0x99), (9, 0x00)] } :=
  ⟨by constructor <;> decide, by constructor <;> decide, rfl, by decide⟩

theorem witness_StickyRecordsEveryError :
    (∃ t, step (given [.cmd 0xFFFF] encoded) = .next t ∧ t.responses = [respWord .illegalCommand 0]) ∧
    (∃ t, step (given [.cmd 0x3000] { encoded with rdptr := 8 }) = .next t ∧
      t.responses = [respWord .empty 0]) ∧
    ∃ t, step (given [.cmd 0x3E00] { encoded with sticky := true }) = .next t :=
  ⟨⟨_, rfl, rfl⟩, ⟨_, rfl, rfl⟩, _, rfl⟩

theorem witness_LastHoldsTheRespondedCode :
    (∃ t, step (given [.cmd 0x3100] encoded) = .next t) ∧ (∃ t, step (given [.cmd 0x3300] encoded) = .next t) ∧
    (∃ t, step (given [.cmd 0x0000] encoded) = .next t) ∧ encoded.Inv ∧ ∃ t, step encoded = .next t :=
  ⟨⟨_, rfl⟩, ⟨_, rfl⟩, ⟨_, rfl⟩, inv_encoded, _, rfl⟩

theorem witness_FrameHoldsTheVerdict :
    (∃ t, exec (.encStart 0x01) encoded = .next t) ∧
    (encFull.mode = .encOpen ∧ ∃ t, exec .encFinish encFull = .next t) ∧
    ((holding .decOpen writeOk).mode = .decOpen ∧ ∃ t, exec .decFinish (holding .decOpen writeOk) = .next t) ∧
    (∃ t, exec (.encByte 0x00) encFull = .next t) ∧ (∃ t, exec .decTimeout decFull = .next t) ∧
    (∃ t, exec .rdByte encoded = .next t) ∧ encoded.mode ∉ legalModes .decTimeout ∧ encFull.Inv ∧ decFull.Inv :=
  ⟨⟨_, rfl⟩, ⟨rfl, next_of_mode (m := .encDone) (by decide +kernel)⟩,
    ⟨rfl, next_of_mode (m := .decDone) (by decide +kernel)⟩, next_of_mode (m := .idle) (by decide +kernel), ⟨_, rfl⟩,
    ⟨_, rfl⟩, by decide, inv_encFull, inv_decFull⟩

theorem witness_CommandsStoreOnlyWhereTheTableSays :
    (∃ t, exec .encFinish encFull = .next t) ∧ 140 ∉ storedIndices .encFinish encFull ∧
      storedIndices .encFinish encFull = [141, 142] ∧ 143 ∉ storedIndices .encFinish encFull :=
  ⟨next_of_mode (m := .encDone) (by decide +kernel), by decide +kernel, by decide +kernel, by decide +kernel⟩

theorem witness_EveryCommandGivesOneResponse :
    (∃ t, step (given [.cmd 0x1200] encFull) = .next t) ∧ ∃ t, step (given [.cmd 0xFFFF] encFull) = .next t :=
  ⟨next_of_mode (m := .encDone) (by decide +kernel), _, rfl⟩

theorem witness_FailWritesExactlyItsFields : isError .frameCrc = true ∧ isError .empty = false := by decide

theorem witness_RepeatedReadsReturnTheSame :
    (∃ t, exec .rdAddr decoded = .next t) ∧ (∃ t, exec .nop decoded = .next t) ∧
      ∃ t, exec .rdByte decoded = .next t ∧ t.last = .ok := ⟨⟨_, rfl⟩, ⟨_, rfl⟩, _, rfl, rfl⟩

theorem witness_CommandsAfterAFailedFrameChangeNothing :
    Mode.idle ∉ legalModes (.encByte 0x42) ∧ Mode.idle ∉ legalModes .decFinish ∧ Mode.idle ∉ legalModes .rdAddr := by
  decide

theorem witness_StartsAndAbortDiscardTheResult :
    encoded.Inv ∧ encoded.mode = .encDone ∧ decoded.Inv ∧ decoded.mode = .decDone :=
  ⟨inv_encoded, rfl, inv_decoded, rfl⟩

theorem witness_CrcBytesLieLowByteFirst :
    (∃ t, exec .encFinish encFull = .next t ∧ t.mode = .encDone ∧
      encFull.len.toNat + 2 ≤ encFull.config.maxAdu ∧ encFull.config.wf = true) ∧
    ((holding .decOpen writeOk).mode = .decOpen ∧ (holding .decOpen writeOk).ovf = false ∧
      (holding .decOpen writeOk).Holds writeOk ∧ (holding .decOpen writeOk).buf.read (7 - 2) = some 0xAC ∧
      (holding .decOpen writeOk).buf.read (7 - 1) = some 0x78) :=
  ⟨by
    obtain ⟨t, ht, hm⟩ := next_of_after
      (show after (exec .encFinish encFull) State.mode = some .encDone by decide +kernel)
    exact ⟨t, ht, hm, by decide +kernel, by decide⟩, by decide⟩

theorem witness_AccessesOutsideTheBufferFault :
    State.reset.config.maxAdu ≤ 256 ∧ (255 < State.reset.config.maxAdu ∧ State.reset.buf.read 255 = none) ∧
    State.config { State.reset with config := { maxAdu := 0 } } = { maxAdu := 0 } ∧
    (small { holding .encOpen [] with len := 143 }).config.maxAdu ≤
      (small { holding .encOpen [] with len := 143 }).len.toNat ∧
    (small { holding .decOpen [] with len := 144 }).config.maxAdu <
      (small { holding .decOpen [] with len := 144 }).len.toNat ∧
    (bufRead { ready .encDone 0 [] with len := 4 } 0 = .error (.bufUnwritten 0) ∧
      (ready .encDone 0 []).rdptr.toNat < (State.len { ready .encDone 0 [] with len := 4 }).toNat) ∧
    bufRead { ready .decDone 1 [] with len := 4 } 1 = .error (.bufUnwritten 1) ∧
    bufRead { holding .encOpen [0x01] with len := 2 } 1 = .error (.bufUnwritten 1) ∧
    bufRead { holding .decOpen [1, 2, 3] with len := 4 } 3 = .error (.bufUnwritten 3) := by decide

theorem witness_AccessesOutsideTheBufferFault_finish :
    (small (holding .encOpen (List.replicate 142 0x00))).Holds (List.replicate 142 0x00) ∧
      (small (holding .encOpen (List.replicate 142 0x00))).config.maxAdu <
        (small (holding .encOpen (List.replicate 142 0x00))).len.toNat + 2 := by decide +kernel

theorem witness_EncodeFrameComputesTheSourcesEncode :
    State.reset.config.wf = true ∧ (small State.reset).config.wf = true ∧
    (given (issue (encFrame 0x01 [0x03]) ++ [.reset]) State.reset).inputs =
      issue (encFrame 0x01 [0x03]) ++ [.reset] ∧
    (List.replicate 140 (0x00 : Byte)).length + 3 ≤ (small State.reset).config.maxAdu ∧
    (small State.reset).config.maxAdu - 3 < (List.replicate 141 (0x00 : Byte)).length := by decide +kernel

theorem witness_EncodeFrameComputesTheSourcesEncode_readOut :
    (given (issue (encFrame 0x01 (List.replicate 140 0x00) ++ readOut (140 + 3)) ++ [.reset])
        (small State.reset)).inputs =
      issue (encFrame 0x01 (List.replicate 140 0x00) ++ readOut (140 + 3)) ++ [.reset] ∧
    (given (issue (encFrame 0x01 [])) State.reset).inputs = issue (encFrame 0x01 []) ++ [] := by
  decide +kernel

theorem witness_DecodeFrameComputesTheSourcesDecode_readOut :
    aduDecode writeOk = .ok (0x01, [0x42, 0x02, 0x00, 0x00]) ∧
    (given (issue (decFrame writeOk ++ [.rdAddr, .rdLen] ++ readOut (7 - 3) ++ [.rdByte]) ++ [.reset])
        State.reset).inputs =
      issue (decFrame writeOk ++ [.rdAddr, .rdLen] ++ readOut (writeOk.length - 3) ++ [.rdByte]) ++ [.reset] := by
  decide +kernel

theorem witness_DecodeFrameComputesTheSourcesDecode :
    State.reset.config.wf = true ∧ aduDecode [0x01, 0x03, 0x40] = .error .frameLength ∧
    aduDecode [0x01, 0x03, 0x40, 0x20] = .error .frameCrc ∧
    aduDecode [0x01, 0x03, 0x40, 0x21] = .ok (0x01, [0x03]) ∧
    writeOk.length ≤ State.reset.config.maxAdu ∧
    (small State.reset).config.maxAdu < (List.replicate 144 (0x00 : Byte)).length ∧
    (given (issue (decFrame writeOk)) State.reset).inputs = issue (decFrame writeOk) ++ [] := by decide +kernel

theorem witness_EncodedFramesDecodeBackAndCorruptOnesDoNot :
    State.reset.config.wf = true ∧ 1 ≤ ([0x03] : List Byte).length ∧
    (aduEncode 0x01 [0x03])[0]? ≠ some 0x81 ∧ (aduEncode 0x01 [0x03])[3]? ≠ some 0x20 ∧
    3 < (aduEncode 0x01 [0x03]).length ∧
    (given (issue (decFrame ((aduEncode 0x01 [0x03]).set 3 0x20))) State.reset).inputs =
      issue (decFrame ((aduEncode 0x01 [0x03]).set 3 0x20)) ++ [] := by decide +kernel

theorem witness_CrcBlockComputesCrc16 :
    (given (issue (crcBlock [0x31])) State.reset).inputs = issue (crcBlock [0x31]) ++ [] := by decide

theorem witness_PseudoCommandsExpandInOrder :
    State.Inv (given (issue (readOut 3)) encoded) ∧
      (given (issue (readOut 3)) encoded).inputs = issue (readOut 3) ++ [] :=
  ⟨by constructor <;> decide +kernel, by decide⟩

theorem witness_AssemblerTextReadsBack : argFormOf .nop = .z8 ∧ argFormOf .abort = .z8 := by decide

end Sys2Proof.Tests
end

section
/-! PROOFS. What the words of commands are, read back from the decoder, and the numbers of modes and result
codes (10_state.md R17, R23, R27; 30_encoding.md R45 to R48). -/

namespace Sys2Proof

/-! ## Command words -/

/-- A word is its two fields. -/
theorem cmdWord_fields (w : Word) : cmdWord (opField w) (argField w) = w := by
  rw [cmdWord, opField, argField,
    BitVec.extractLsb'_append_extractLsb'_eq_extractLsb' (show 8 = 0 + 8 from rfl)]
  exact BitVec.extractLsb'_eq_self

theorem z8Command_eq_ok {op arg : Byte} {i j : Instr} :
    z8Command op arg i = .ok j ↔ arg = 0 ∧ i = j := by
  unfold z8Command
  split <;> simp_all

/-- A word that decodes has the command's opcode and its ARG byte. -/
theorem fields_of_decode {w : Word} {i : Instr} (h : decode w = .ok i) :
    opField w = opcodeOf i ∧ argField w = argOf i := by
  simp only [decode] at h
  split at h
  case h_18 => cases h
  case h_3 | h_5 | h_6 | h_9 =>
    cases h
    exact ⟨BitVec.eq_of_toNat_eq (by assumption), rfl⟩
  all_goals
    obtain ⟨harg, rfl⟩ := z8Command_eq_ok.mp h
    exact ⟨BitVec.eq_of_toNat_eq (by assumption), harg⟩

/-- A word that decodes is the word of its command. -/
theorem encode_of_decode {w : Word} {i : Instr} (h : decode w = .ok i) : encode i = w := by
  obtain ⟨hop, harg⟩ := fields_of_decode h
  rw [encode, ← hop, ← harg, cmdWord_fields]

theorem ne_of_decode {w : Word} {i j : Instr} (h : decode w = .ok i) (hw : w ≠ encode j) : i ≠ j := by
  rintro rfl
  exact hw (encode_of_decode h).symm

end Sys2Proof

namespace Sys2Proof.Machine

/-! ## Result codes -/

/-- The code a value names; the values no code has are sent to NONE. -/
def codeOfBits (v : BitVec 4) : Code :=
  match v.toNat with
  | 0 => .ok
  | 1 => .frameCrc
  | 2 => .frameLength
  | 3 => .timeout
  | 4 => .encLength
  | 5 => .illegalCommand
  | 6 => .illegalSequence
  | 7 => .empty
  | _ => .noVerdict

theorem codeOfBits_codeBits (c : Code) : codeOfBits (codeBits c) = c := by cases c <;> rfl

theorem codeBits_injective : Function.Injective codeBits :=
  Function.LeftInverse.injective codeOfBits_codeBits

theorem isError_iff_codeBits (c : Code) :
    isError c = true ↔ 1 ≤ (codeBits c).toNat ∧ (codeBits c).toNat ≤ 6 := by
  cases c <;> decide

/-- The codes with "error?" in R23. -/
theorem isError_iff_mem (c : Code) :
    isError c = true ↔ c ∈ [Code.frameCrc, .frameLength, .timeout, .encLength, .illegalCommand,
      .illegalSequence] := by
  cases c <;> decide

/-! ## Response words -/

@[simp] theorem respCode_respWord (c : Code) (d : Word) : respCode (respWord c d) = codeBits c :=
  BitVec.extractLsb'_append_eq_left

@[simp] theorem respData_respWord (c : Code) (d : Word) : respData (respWord c d) = d :=
  BitVec.extractLsb'_append_eq_right

/-- A response word names its code. -/
theorem code_eq_of_respWord_eq {c c' : Code} {d d' : Word} (h : respWord c d = respWord c' d') :
    c = c' :=
  codeBits_injective (by rw [← respCode_respWord c d, h, respCode_respWord])

/-! ## The STATUS view -/

theorem statusWord_last (s : State) : (statusWord s).extractLsb' 0 4 = codeBits s.last := by
  rw [statusWord, BitVec.extractLsb'_append_eq_right]

theorem statusWord_mode (s : State) : (statusWord s).extractLsb' 4 3 = modeBits s.mode := by
  rw [statusWord, BitVec.extractLsb'_append_eq_of_le (by decide), BitVec.extractLsb'_append_eq_right]

theorem statusWord_sticky (s : State) : (statusWord s).getLsbD 7 = s.sticky := by
  simp only [statusWord, BitVec.getLsbD_append]
  simp

theorem statusWord_frame (s : State) : (statusWord s).extractLsb' 8 4 = codeBits s.frame := by
  rw [statusWord]
  iterate 3 rw [BitVec.extractLsb'_append_eq_of_le (by decide)]
  exact BitVec.extractLsb'_append_eq_right

theorem statusWord_ovf (s : State) : (statusWord s).getLsbD 12 = s.ovf := by
  simp only [statusWord, BitVec.getLsbD_append]
  simp

theorem statusWord_top (s : State) : (statusWord s).extractLsb' 13 3 = 0 := by
  rw [statusWord]
  iterate 4 rw [BitVec.extractLsb'_append_eq_of_le (by decide)]
  exact BitVec.extractLsb'_append_eq_left

theorem statusWord_resetWith (c : Config) : statusWord (State.resetWith c) = 0x0F00 :=
  show 0#3 ++ BitVec.ofBool false ++ codeBits .noVerdict ++ BitVec.ofBool false ++ modeBits .idle ++
    codeBits .ok = 0x0F00 by decide

end Sys2Proof.Machine
end

section
/-! PROOFS. Every next state of a command, both ways, and what all of them have in common: the response and
the elements LAST and STICKY that follow its code (10_state.md R24, R25, 30_encoding.md R47). -/

namespace Sys2Proof.Machine

/-! ## The meanings and their outcomes -/

/-- A command outside its row of R18 fails with ILLEGAL_SEQUENCE (60_exceptions.md R82). -/
theorem exec_of_illegal {i : Instr} {s : State} (h : legalIn i s.mode = false) :
    exec i s = .next (fail .illegalSequence s) := by
  cases i
  case encByte | encFinish | decByte | decFinish | decTimeout | rdByte | rdAddr =>
    exact whenLegal_of_illegal _ h
  all_goals cases h

/-- A command answers its own outcome: the converse of `exec_cases`. -/
theorem exec_of_ownOutcome {i : Instr} {s t : State} (hl : legalIn i s.mode = true)
    (h : OwnOutcome i s t) : exec i s = .next t := by
  cases i
  case encStart a =>
    obtain ⟨hi, rfl⟩ := h
    simp [exec, execEncStart, bufWrite_of_lt _ hi]
  case encByte d =>
    refine (whenLegal_of_legal _ hl).trans ?_
    obtain ⟨-, ⟨hf, rfl⟩ | ⟨hf, hi, rfl⟩⟩ := h
    · rw [if_pos hf]
    · rw [if_neg hf, appendIndex, bufWrite_of_lt _ hi, orFault_ok]
  case encFinish =>
    refine (whenLegal_of_legal _ hl).trans ?_
    obtain ⟨-, ⟨hf, rfl⟩ | ⟨hf, hi, f, hb, rfl⟩⟩ := h
    · rw [if_pos hf]
    · rw [if_neg (by omega), bufBytes_of_holds hb, orFault_ok, appendIndex,
        bufWrite_of_lt _ (by omega), orFault_ok,
        @bufWrite_of_lt { s with buf := s.buf.write s.len.toNat (lo8 (crc16 f)) } _ _ hi, orFault_ok]
  case decByte d =>
    refine (whenLegal_of_legal _ hl).trans ?_
    obtain ⟨-, ⟨hf, rfl⟩ | ⟨hi, rfl⟩⟩ := h
    · rw [if_pos hf]
    · rw [if_neg (by omega), appendIndex, bufWrite_of_lt _ hi, orFault_ok]
  case decFinish =>
    refine (whenLegal_of_legal _ hl).trans ?_
    obtain ⟨-, ⟨hf, rfl⟩ | ⟨ho, hf, f, hb, hf'⟩⟩ := h
    · by_cases ho : s.ovf = true
      · rw [if_pos ho]
      · rw [if_neg ho, if_pos (by simpa [minAdu, ho] using hf)]
    · rw [if_neg (by simp [ho]), if_neg (by simpa [minAdu] using hf), hb, orFault_ok]
      obtain ⟨hc, rfl⟩ | ⟨hc, rfl⟩ := hf'
      · rw [if_neg (by simp [hc])]
      · rw [if_pos hc]
  case decTimeout =>
    obtain ⟨-, rfl⟩ := h
    exact whenLegal_of_legal _ hl
  case rdByte =>
    refine (whenLegal_of_legal _ hl).trans ?_
    obtain ⟨-, ⟨hr, rfl⟩ | ⟨hr, b, hb, rfl⟩⟩ := h
    · rw [if_neg hr]
    · rw [if_pos hr, hb, orFault_ok]
  case rdAddr =>
    refine (whenLegal_of_legal _ hl).trans ?_
    obtain ⟨-, b, hb, rfl⟩ := h
    rw [hb, orFault_ok]
  all_goals exact congrArg Host.Outcome.next h.symm

/-! ## The response of a command -/

/-- The command responds with the code and the data, and LAST and STICKY follow the code, but for the commands
that R24 and R25 name. -/
structure Answers (i : Instr) (s t : State) (code : Code) (data : Word) : Prop where
  responses : t.responses = s.responses ++ [respWord code data]
  verdict : code ≠ .noVerdict
  data : code ≠ .ok → data = 0
  recorded : i ≠ .nop → i ≠ .rdStatus → t.last = code
  silent : i = .nop ∨ i = .rdStatus → t.last = s.last
  sticky : i ≠ .clrStatus → t.sticky = (s.sticky || isError code)
  cleared : i = .clrStatus → code = .ok ∧ t.sticky = false

/-- The commands of which R24 and R25 say something of their own. -/
def statusExempt (i : Instr) : Bool := i == .nop || i == .rdStatus || i == .clrStatus

section
variable {i : Instr} {s u : State} {code : Code} {data : Word}

theorem Answers.of_plain {t : State} (hi : statusExempt i = false)
    (hr : t.responses = s.responses ++ [respWord code data]) (hv : code ≠ .noVerdict)
    (hd : code ≠ .ok → data = 0) (hl : t.last = code) (hs : t.sticky = (s.sticky || isError code)) :
    Answers i s t code data := by
  simp only [statusExempt, Bool.or_eq_false_iff, beq_eq_false_iff_ne] at hi
  obtain ⟨⟨hnop, hst⟩, hclr⟩ := hi
  exact ⟨hr, hv, hd, fun _ _ => hl, fun h => (h.elim hnop hst).elim, fun _ => hs, fun h => (hclr h).elim⟩

theorem Answers.of_succeed (hi : statusExempt i = false) (hr : u.responses = s.responses)
    (hs : u.sticky = s.sticky) : Answers i s (succeed data u) .ok data :=
  .of_plain hi (by simp [hr]) nofun nofun rfl (by simp [hs, isError])

theorem Answers.of_fail (hi : statusExempt i = false) (hv : code ≠ .noVerdict)
    (hr : u.responses = s.responses) (hs : u.sticky = s.sticky) : Answers i s (fail code u) code 0 :=
  .of_plain hi (by simp [hr]) hv (fun _ => rfl) rfl (by simp [hs])

theorem Answers.of_frameFail (hi : statusExempt i = false) (hv : isError code = true)
    (hr : u.responses = s.responses) : Answers i s (frameFail code u) code 0 :=
  .of_plain hi (by simp [hr]) (by rintro rfl; cases hv) (fun _ => rfl) rfl (by simp [hv])

/-- NOP and RD_STATUS write neither LAST nor STICKY. -/
theorem Answers.of_respond (hi : i = .nop ∨ i = .rdStatus) : Answers i s (respond .ok data s) .ok data where
  responses := rfl
  verdict := nofun
  data := nofun
  recorded hnop hst := (hi.elim hnop hst).elim
  silent _ := rfl
  sticky _ := by simp [isError]
  cleared h := by subst h; simp at hi

theorem Answers.of_clear :
    Answers .clrStatus s (succeed data { s with sticky := false }) .ok data where
  responses := rfl
  verdict := nofun
  data := nofun
  recorded _ _ := rfl
  silent := nofun
  sticky h := (h rfl).elim
  cleared _ := ⟨rfl, rfl⟩

end

/-- A command in its row of R18 answers with a code other than ILLEGAL_SEQUENCE. -/
theorem OwnOutcome.answers {i : Instr} {s t : State} (h : OwnOutcome i s t) :
    ∃ code data, Answers i s t code data ∧ code ≠ .illegalSequence := by
  cases i
  case nop =>
    obtain rfl := h
    exact ⟨_, _, .of_respond (.inl rfl), nofun⟩
  case rdStatus =>
    obtain rfl := h
    exact ⟨_, _, .of_respond (.inr rfl), nofun⟩
  case clrStatus =>
    obtain rfl := h
    exact ⟨.ok, 0, .of_clear, nofun⟩
  case crcInit | crcByte | crcRead | decStart | rdLen | abort =>
    obtain rfl := h
    exact ⟨_, _, .of_succeed rfl rfl rfl, nofun⟩
  case encStart =>
    obtain ⟨-, rfl⟩ := h
    exact ⟨_, _, .of_succeed rfl rfl rfl, nofun⟩
  case encByte =>
    obtain ⟨-, ⟨-, rfl⟩ | ⟨-, -, rfl⟩⟩ := h
    · exact ⟨_, _, .of_frameFail rfl rfl rfl, nofun⟩
    · exact ⟨_, _, .of_succeed rfl rfl rfl, nofun⟩
  case encFinish =>
    obtain ⟨-, ⟨-, rfl⟩ | ⟨-, -, f, -, rfl⟩⟩ := h
    · exact ⟨_, _, .of_frameFail rfl rfl rfl, nofun⟩
    · exact ⟨_, _, .of_succeed rfl rfl rfl, nofun⟩
  case decByte =>
    obtain ⟨-, ⟨-, rfl⟩ | ⟨-, rfl⟩⟩ := h
    · exact ⟨_, _, .of_fail rfl nofun rfl rfl, nofun⟩
    · exact ⟨_, _, .of_succeed rfl rfl rfl, nofun⟩
  case decFinish =>
    obtain ⟨-, ⟨-, rfl⟩ | ⟨-, -, f, -, ⟨-, rfl⟩ | ⟨-, rfl⟩⟩⟩ := h
    · exact ⟨_, _, .of_frameFail rfl rfl rfl, nofun⟩
    · exact ⟨_, _, .of_frameFail rfl rfl rfl, nofun⟩
    · exact ⟨_, _, .of_succeed rfl rfl rfl, nofun⟩
  case decTimeout =>
    obtain ⟨-, rfl⟩ := h
    exact ⟨_, _, .of_frameFail rfl rfl rfl, nofun⟩
  case rdByte =>
    obtain ⟨-, ⟨-, rfl⟩ | ⟨-, b, -, rfl⟩⟩ := h
    · exact ⟨_, _, .of_fail rfl nofun rfl rfl, nofun⟩
    · exact ⟨_, _, .of_succeed rfl rfl rfl, nofun⟩
  case rdAddr =>
    obtain ⟨-, b, -, rfl⟩ := h
    exact ⟨_, _, .of_succeed rfl rfl rfl, nofun⟩

/-- The commands that R24 and R25 name are legal in every mode. -/
theorem statusExempt_of_illegal {i : Instr} {m : Mode} (h : legalIn i m = false) :
    statusExempt i = false := by
  cases i
  case nop | rdStatus | clrStatus => cases h
  all_goals rfl

/-- Every command that answers a next state gives one response, and LAST and STICKY follow it. -/
theorem exec_answers {i : Instr} {s t : State} (h : exec i s = .next t) :
    ∃ code data, Answers i s t code data := by
  obtain ⟨hl, rfl⟩ | ⟨-, h⟩ := exec_cases h
  · exact ⟨_, _, .of_fail (statusExempt_of_illegal hl) nofun rfl rfl⟩
  · obtain ⟨code, data, ha, -⟩ := h.answers
    exact ⟨code, data, ha⟩

/-- A step on a command word runs the command or fails with ILLEGAL_COMMAND. -/
theorem step_command_cases {s t : State} {w : Word} {rest : List Input}
    (hin : s.inputs = .cmd w :: rest) (h : step s = .next t) :
    (∃ i, decode w = .ok i ∧ exec i { s with inputs := rest } = .next t) ∨
      ∃ r, decode w = .error r ∧ t = fail .illegalCommand { s with inputs := rest } := by
  obtain ⟨hnil, -⟩ | ⟨_, hreset, -⟩ | ⟨w', rest', i, hcmd, hd, he⟩ | ⟨w', rest', r, hcmd, hd, ht⟩ :=
    step_cases h
  · simp [hin] at hnil
  · simp [hin] at hreset
  · obtain ⟨rfl, rfl⟩ : w = w' ∧ rest = rest' := by simpa [hin] using hcmd
    exact .inl ⟨i, hd, he⟩
  · obtain ⟨rfl, rfl⟩ : w = w' ∧ rest = rest' := by simpa [hin] using hcmd
    exact .inr ⟨r, hd, ht⟩

end Sys2Proof.Machine
end

section
/-! PROOFS. The obligations of 10_state.md on the numbers, the layout and reset values. -/

namespace Sys2Proof.Machine

/-- Settles O37: a left inverse of `codeBits` gives the last part. -/
theorem resultCodesHaveTheirNumbers : Obligations.ResultCodesHaveTheirNumbers :=
  ⟨rfl, rfl, rfl, rfl, rfl, rfl, rfl, rfl, rfl, isError_iff_codeBits,
    fun c => by cases c <;> decide, fun _ _ h => codeBits_injective h⟩

/-- Settles O36, field by field. -/
theorem statusViewHasTheSpecLayout : Obligations.StatusViewHasTheSpecLayout := by
  refine ⟨fun s => ⟨statusWord_last s, statusWord_mode s, statusWord_sticky s, statusWord_frame s,
    statusWord_ovf s, statusWord_top s⟩, fun _ => rfl, fun _ => rfl, fun s t h => ?_⟩
  obtain rfl : succeed 0 { s with sticky := false } = t := by simpa [exec, execClrStatus] using h
  exact ⟨statusWord_last _, statusWord_sticky _⟩

/-- Settles O30: every element is a constant of `resetWith`, and the CRC of one byte is one turn from the
initial value. -/
theorem resetLeavesTheSpecValues : Obligations.ResetLeavesTheSpecValues := fun _ =>
  ⟨rfl, rfl, rfl, rfl, rfl, rfl, rfl, rfl, statusWord_resetWith _, fun _ => ⟨_, rfl, rfl⟩⟩

end Sys2Proof.Machine
end

section
/-! PROOFS. The obligations of 10_state.md on the mode table, STICKY and LAST (R18, R24, R25). -/

namespace Sys2Proof.Machine

/-- Settles O6: outside its row a command is cut off by the mode check; inside it, the code of its response
is another one, and a response word names its code. -/
theorem commandsOutOfSequenceFail : Obligations.CommandsOutOfSequenceFail := by
  refine fun i s => ⟨fun hm => ?_, fun hm t h data heq => ?_⟩
  · have hl : legalIn i s.mode = false := by simpa [mem_legalModes] using hm
    rw [exec_of_illegal hl, fail_eq_afterError rfl, afterError]
  · have hl : legalIn i s.mode = true := (mem_legalModes i s.mode).mp hm
    obtain ⟨hl', -⟩ | ⟨-, h⟩ := exec_cases h
    · simp [hl] at hl'
    · obtain ⟨code, data', ha, hne⟩ := h.answers
      have hw : respWord code data' = respWord .illegalSequence data := by
        simpa using ha.responses.symm.trans heq
      exact hne (code_eq_of_respWord_eq hw)

/-- Settles O44: STICKY takes up every error code, and only the word of CLR_STATUS decodes to the command
that clears it. -/
theorem stickyRecordsEveryError : Obligations.StickyRecordsEveryError := by
  refine ⟨fun s t w rest hin h => ?_, fun _ => rfl⟩
  obtain ⟨i, hd, he⟩ | ⟨r, hd, rfl⟩ := step_command_cases hin h
  · obtain ⟨code, data, ha⟩ := exec_answers he
    refine ⟨code, data, ha.responses, fun hc => ?_, fun hc hw => ?_, fun hw => ?_⟩
    · have herr : isError code = true := (isError_iff_mem code).mpr hc
      have hclr : i ≠ .clrStatus := fun hi => by simp [(ha.cleared hi).1, isError] at herr
      rw [ha.sticky hclr, herr, Bool.or_true]
    · have hok : isError code = false := by
        obtain rfl | rfl : code = .ok ∨ code = .empty := by simpa using hc
        all_goals rfl
      rw [ha.sticky (ne_of_decode hd hw), hok, Bool.or_false]
    · subst hw
      exact (ha.cleared (Except.ok.inj (hd.symm.trans (by decide)))).2
  · refine ⟨.illegalCommand, 0, rfl, fun _ => by simp [isError], fun hc => by simp at hc, fun hw => ?_⟩
    subst hw
    cases hd

/-- Settles O45: LAST is the code of the response, and the words of NOP and RD_STATUS are the only ones that
decode to the commands that leave it. -/
theorem lastHoldsTheRespondedCode : Obligations.LastHoldsTheRespondedCode := by
  refine ⟨fun s t w rest hin h => ?_, fun s t hinv h => ?_⟩
  · obtain ⟨i, hd, he⟩ | ⟨r, hd, rfl⟩ := step_command_cases hin h
    · obtain ⟨code, data, ha⟩ := exec_answers he
      refine ⟨code, data, ha.responses, ha.verdict,
        fun hnop hst => ha.recorded (ne_of_decode hd hnop) (ne_of_decode hd hst), fun hw => ha.silent ?_⟩
      obtain rfl | rfl := hw
      · exact .inl (Except.ok.inj (hd.symm.trans (by decide)))
      · exact .inr (Except.ok.inj (hd.symm.trans (by decide)))
    · refine ⟨.illegalCommand, 0, rfl, nofun, fun _ _ => rfl, fun hw => ?_⟩
      obtain rfl | rfl := hw <;> cases hd
  · obtain ⟨-, rfl⟩ | ⟨_, -, rfl⟩ | ⟨w, rest, i, -, -, he⟩ | ⟨w, rest, r, -, -, rfl⟩ := step_cases h
    · exact hinv.lastCode
    · exact nofun
    · obtain ⟨code, data, ha⟩ := exec_answers he
      by_cases hi : i = .nop ∨ i = .rdStatus
      · rw [ha.silent hi]
        exact hinv.lastCode
      · obtain ⟨hnop, hst⟩ := not_or.mp hi
        rw [ha.recorded hnop hst]
        exact ha.verdict
    · exact nofun

end Sys2Proof.Machine
end

section
/-! PROOFS. What the commands do to MODE, FRAME and OVF (10_state.md R17, R21, R26). -/

namespace Sys2Proof.Machine

variable {i : Instr} {s t : State}

/-! ## MODE and FRAME -/

/-- The other commands than the seven of R17 write neither MODE nor FRAME. -/
theorem exec_keeps_mode_frame (h : exec i s = .next t) (ha : ∀ a, i ≠ .encStart a)
    (hd : ∀ d, i ≠ .encByte d)
    (hi : i ∉ [Instr.encFinish, .decStart, .decFinish, .decTimeout, .abort]) :
    t.mode = s.mode ∧ t.frame = s.frame := by
  obtain ⟨-, rfl⟩ | ⟨-, h⟩ := exec_cases h
  · exact ⟨rfl, rfl⟩
  · cases i
    case encStart => exact (ha _ rfl).elim
    case encByte => exact (hd _ rfl).elim
    case encFinish | decStart | decFinish | decTimeout | abort => simp at hi
    case decByte => obtain ⟨-, ⟨-, rfl⟩ | ⟨-, rfl⟩⟩ := h <;> exact ⟨rfl, rfl⟩
    case rdByte => obtain ⟨-, ⟨-, rfl⟩ | ⟨-, b, -, rfl⟩⟩ := h <;> exact ⟨rfl, rfl⟩
    case rdAddr =>
      obtain ⟨-, b, -, rfl⟩ := h
      exact ⟨rfl, rfl⟩
    all_goals
      obtain rfl := h
      exact ⟨rfl, rfl⟩

/-- The commands that abandon whatever frame there is: the STARTs and ABORT. -/
def discardsFrame (i : Instr) : Bool :=
  match i with
  | .encStart _ | .decStart | .abort => true
  | _ => false

theorem discardsFrame_iff :
    discardsFrame i = true ↔ (∃ a, i = .encStart a) ∨ i = .decStart ∨ i = .abort := by
  cases i <;> simp [discardsFrame]

/-- The STARTs and ABORT leave FRAME NONE and OVF 0. -/
theorem exec_discards (h : exec i s = .next t) (hi : discardsFrame i = true) :
    t.frame = .noVerdict ∧ t.ovf = false := by
  obtain ⟨a, rfl⟩ | rfl | rfl := discardsFrame_iff.mp hi
  · obtain ⟨-, rfl⟩ := encStart_cases h
    exact ⟨rfl, rfl⟩
  all_goals
    cases h
    exact ⟨rfl, rfl⟩

/-- FRAME after a legal ENC_FINISH is the code it responds with. -/
theorem encFinish_frame (h : exec .encFinish s = .next t) (hm : s.mode = .encOpen) :
    t.frame = t.last ∧ t.frame ∈ [Code.ok, .encLength] := by
  obtain ⟨hm', -⟩ | ⟨-, -, rfl⟩ | ⟨-, -, -, f, -, rfl⟩ := encFinish_cases h
  · exact (hm' hm).elim
  all_goals exact ⟨rfl, by simp⟩

/-- FRAME after a legal DEC_FINISH is the code it responds with. -/
theorem decFinish_frame (h : exec .decFinish s = .next t) (hm : s.mode = .decOpen) :
    t.frame = t.last ∧ t.frame ∈ [Code.ok, .frameLength, .frameCrc] := by
  obtain ⟨hm', -⟩ | ⟨-, -, rfl⟩ | ⟨-, -, -, f, -, ⟨-, rfl⟩ | ⟨-, rfl⟩⟩ := decFinish_cases h
  · exact (hm' hm).elim
  all_goals exact ⟨rfl, by simp⟩

/-- A legal ENC_BYTE ends the frame with ENC_LENGTH or leaves MODE and FRAME. -/
theorem encByte_frame {d : Byte} (h : exec (.encByte d) s = .next t) (hm : s.mode = .encOpen) :
    (t.mode = .idle ∧ t.frame = .encLength) ∨ (t.mode = .encOpen ∧ t.frame = s.frame) := by
  obtain ⟨hm', -⟩ | ⟨-, -, rfl⟩ | ⟨-, -, -, rfl⟩ := encByte_cases h
  · exact (hm' hm).elim
  · exact .inl ⟨rfl, rfl⟩
  · exact .inr ⟨hm, rfl⟩

theorem decTimeout_frame (h : exec .decTimeout s = .next t) (hm : s.mode = .decOpen) :
    t.frame = .timeout := by
  obtain ⟨hm', -⟩ | ⟨-, rfl⟩ := decTimeout_cases h
  · exact (hm' hm).elim
  · rfl

/-- A command outside its row of R18 leaves FRAME. -/
theorem exec_illegal_frame (h : exec i s = .next t) (hm : s.mode ∉ legalModes i) : t.frame = s.frame := by
  obtain ⟨-, rfl⟩ | ⟨hl, -⟩ := exec_cases h
  · rfl
  · exact (hm ((mem_legalModes i s.mode).mpr hl)).elim

/-- FRAME has a legal value of R26 in every state that meets the invariant, NONE while a frame is open. -/
theorem State.Inv.frame_legal (hs : s.Inv) :
    (s.mode = .encOpen ∨ s.mode = .decOpen → s.frame = .noVerdict) ∧
      s.frame ∈ [Code.noVerdict, .ok, .frameCrc, .frameLength, .timeout, .encLength] := by
  cases hm : s.mode
  case idle =>
    obtain ⟨-, -, -, hf⟩ := hs.idle hm
    refine ⟨nofun, ?_⟩
    simp only [List.mem_cons] at hf ⊢
    tauto
  case encOpen =>
    obtain ⟨-, -, -, -, hf⟩ := hs.encOpen hm
    exact ⟨fun _ => hf, by simp [hf]⟩
  case encDone =>
    obtain ⟨-, -, -, -, hf, -⟩ := hs.encDone hm
    exact ⟨nofun, by simp [hf]⟩
  case decOpen =>
    obtain ⟨-, -, hf, -⟩ := hs.decOpen hm
    exact ⟨fun _ => hf, by simp [hf]⟩
  case decDone =>
    obtain ⟨-, -, -, -, -, hf, -⟩ := hs.decDone hm
    exact ⟨nofun, by simp [hf]⟩

/-! ## OVF -/

/-- What a command can do to OVF (R21). -/
inductive OvfChange (i : Instr) (s t : State) : Prop where
  /-- it leaves OVF, and leaves no frame for IDLE -/
  | kept (ho : t.ovf = s.ovf) (hm : t.mode = .idle → s.mode = .idle)
  /-- DEC_BYTE finds the buffer full -/
  | dropped (d : Byte) (hi : i = .decByte d) (hm : s.mode = .decOpen)
      (hl : s.len.toNat = s.config.maxAdu) (ht : t = fail .frameLength { s with ovf := true })
  /-- a START or ABORT clears OVF -/
  | discarded (hi : discardsFrame i = true) (ho : t.ovf = false)
  /-- a frame failure clears OVF -/
  | failed (ho : t.ovf = false) (hm : t.mode = .idle) (hf : isError t.frame = true)

theorem OvfChange.of_frameFail {u : State} {c : Code} (hc : isError c = true) :
    OvfChange i s (frameFail c u) := .failed rfl rfl hc

theorem exec_ovfChange (h : exec i s = .next t) : OvfChange i s t := by
  obtain ⟨-, rfl⟩ | ⟨-, ho⟩ := exec_cases h
  · exact .kept rfl id
  · cases i
    case encStart | decStart | abort => exact .discarded rfl (exec_discards h rfl).2
    case encByte =>
      obtain ⟨-, ⟨-, rfl⟩ | ⟨-, -, rfl⟩⟩ := ho
      · exact .of_frameFail rfl
      · exact .kept rfl id
    case encFinish =>
      obtain ⟨-, ⟨-, rfl⟩ | ⟨-, -, f, -, rfl⟩⟩ := ho
      · exact .of_frameFail rfl
      · exact .kept rfl nofun
    case decByte d =>
      obtain ⟨hm, ⟨hl, rfl⟩ | ⟨-, rfl⟩⟩ := ho
      · exact .dropped d rfl hm hl rfl
      · exact .kept rfl id
    case decFinish =>
      obtain ⟨-, ⟨-, rfl⟩ | ⟨-, -, f, -, ⟨-, rfl⟩ | ⟨-, rfl⟩⟩⟩ := ho
      · exact .of_frameFail rfl
      · exact .of_frameFail rfl
      · exact .kept rfl nofun
    case decTimeout =>
      obtain ⟨-, rfl⟩ := ho
      exact .of_frameFail rfl
    case rdByte => obtain ⟨-, ⟨-, rfl⟩ | ⟨-, b, -, rfl⟩⟩ := ho <;> exact .kept rfl id
    case rdAddr =>
      obtain ⟨-, b, -, rfl⟩ := ho
      exact .kept rfl id
    all_goals
      obtain rfl := ho
      exact .kept rfl id

/-- Only DEC_FINISH and RD_STATUS read OVF: with another value of it the other commands have the same
outcome. -/
theorem OwnOutcome.with_ovf (b : Bool) (hf : i ≠ .decFinish) (hst : i ≠ .rdStatus)
    (h : OwnOutcome i s t) :
    ∃ u, OwnOutcome i { s with ovf := b } u ∧ t = { u with ovf := t.ovf } := by
  cases i
  case decFinish => exact (hf rfl).elim
  case rdStatus => exact (hst rfl).elim
  case encStart =>
    obtain ⟨hi, rfl⟩ := h
    exact ⟨_, ⟨hi, rfl⟩, rfl⟩
  case encByte =>
    obtain ⟨hm, ⟨hl, rfl⟩ | ⟨hl, hi, rfl⟩⟩ := h
    · exact ⟨_, ⟨hm, .inl ⟨hl, rfl⟩⟩, rfl⟩
    · exact ⟨_, ⟨hm, .inr ⟨hl, hi, rfl⟩⟩, rfl⟩
  case encFinish =>
    obtain ⟨hm, ⟨hl, rfl⟩ | ⟨hl, hi, f, hb, rfl⟩⟩ := h
    · exact ⟨_, ⟨hm, .inl ⟨hl, rfl⟩⟩, rfl⟩
    · exact ⟨_, ⟨hm, .inr ⟨hl, hi, f, hb, rfl⟩⟩, rfl⟩
  case decByte =>
    obtain ⟨hm, ⟨hl, rfl⟩ | ⟨hl, rfl⟩⟩ := h
    · exact ⟨_, ⟨hm, .inl ⟨hl, rfl⟩⟩, rfl⟩
    · exact ⟨_, ⟨hm, .inr ⟨hl, rfl⟩⟩, rfl⟩
  case decTimeout =>
    obtain ⟨hm, rfl⟩ := h
    exact ⟨_, ⟨hm, rfl⟩, rfl⟩
  case rdByte =>
    obtain ⟨hm, ⟨hr, rfl⟩ | ⟨hr, b', hb, rfl⟩⟩ := h
    · exact ⟨_, ⟨hm, .inl ⟨hr, rfl⟩⟩, rfl⟩
    · exact ⟨_, ⟨hm, .inr ⟨hr, b', hb, rfl⟩⟩, rfl⟩
  case rdAddr =>
    obtain ⟨hm, b', hb, rfl⟩ := h
    exact ⟨_, ⟨hm, b', hb, rfl⟩, rfl⟩
  all_goals
    obtain rfl := h
    exact ⟨_, rfl, rfl⟩

theorem exec_with_ovf (b : Bool) (hf : i ≠ .decFinish) (hst : i ≠ .rdStatus) (h : exec i s = .next t) :
    ∃ u, exec i { s with ovf := b } = .next u ∧ t = { u with ovf := t.ovf } := by
  obtain ⟨hl, rfl⟩ | ⟨hl, ho⟩ := exec_cases h
  · exact ⟨_, exec_of_illegal hl, rfl⟩
  · obtain ⟨u, hu, ht⟩ := ho.with_ovf b hf hst
    exact ⟨u, exec_of_ownOutcome hl hu, ht⟩

theorem decFinish_of_ovf (hm : s.mode = .decOpen) (ho : s.ovf = true) :
    exec .decFinish s = .next (afterFrameError .frameLength s) :=
  exec_of_ownOutcome (by simp [hm, legalIn]) ⟨hm, .inl ⟨.inl ho, rfl⟩⟩

/-- OVF is 0 in every mode but DEC_OPEN (R28). -/
theorem State.Inv.ovf_eq_false (hs : s.Inv) (hm : s.mode ≠ .decOpen) : s.ovf = false := by
  cases hm' : s.mode
  case decOpen => exact (hm hm').elim
  case idle =>
    obtain ⟨-, -, ho, -⟩ := hs.idle hm'
    exact ho
  case encOpen =>
    obtain ⟨-, -, -, ho, -⟩ := hs.encOpen hm'
    exact ho
  case encDone =>
    obtain ⟨-, -, -, ho, -⟩ := hs.encDone hm'
    exact ho
  case decDone =>
    obtain ⟨-, -, -, -, ho, -⟩ := hs.decDone hm'
    exact ho

end Sys2Proof.Machine
end

section
/-! PROOFS. The obligations of 10_state.md on MODE, OVF and FRAME (R17, R21, R26). -/

namespace Sys2Proof.Machine

/-- Settles O38: a reserved word only fails, and the commands that are not of R17's seven keep MODE. -/
theorem modeIsWrittenOnlyByItsCommands : Obligations.ModeIsWrittenOnlyByItsCommands := by
  refine ⟨rfl, rfl, rfl, rfl, rfl, fun m => by cases m <;> decide,
    fun i s t h ha hd hi => (exec_keeps_mode_frame h ha hd hi).1, fun s t w rest r hin hd h => ?_⟩
  obtain ⟨i, hd', -⟩ | ⟨_, -, rfl⟩ := step_command_cases hin h
  · cases hd.symm.trans hd'
  · rfl

/-- Settles O41, by the four things a command can do to OVF. -/
theorem ovfIsSetOnlyByADroppedByte : Obligations.OvfIsSetOnlyByADroppedByte := by
  refine ⟨fun i s t h h0 h1 => ?_,
    fun i s t h => ⟨fun hi => (exec_discards h (discardsFrame_iff.mpr hi)).2, fun hidle hopen => ?_⟩,
    fun i s t h h1 h0 => ?_, fun _ => rfl, fun i s t b hf hst h => exec_with_ovf b hf hst h,
    fun s => decFinish_of_ovf, fun s => State.Inv.ovf_eq_false⟩
  · obtain ⟨ho, -⟩ | ⟨d, rfl, hm, hl, rfl⟩ | ⟨-, ho⟩ | ⟨ho, -, -⟩ := exec_ovfChange h
    · simp [ho, h0] at h1
    · exact ⟨⟨d, rfl⟩, hm, hl, rfl, rfl⟩
    · simp [ho] at h1
    · simp [ho] at h1
  · obtain ⟨-, hm⟩ | ⟨d, rfl, hm, -, rfl⟩ | ⟨-, ho⟩ | ⟨ho, -, -⟩ := exec_ovfChange h
    · exact (hopen (hm hidle)).elim
    · exact (hopen hidle).elim
    · exact ho
    · exact ho
  · obtain ⟨ho, -⟩ | ⟨d, rfl, -, -, rfl⟩ | ⟨hi, -⟩ | ⟨-, hm, hf⟩ := exec_ovfChange h
    · simp [ho, h1] at h0
    · cases h0
    · obtain hs | hs | hs := discardsFrame_iff.mp hi
      · exact .inl hs
      · exact .inr (.inl hs)
      · exact .inr (.inr (.inl hs))
    · exact .inr (.inr (.inr ⟨hm, hf⟩))

/-- Settles O46, clause by clause from what each command does to FRAME. -/
theorem frameHoldsTheVerdict : Obligations.FrameHoldsTheVerdict := by
  refine ⟨fun i s t h => ⟨fun hi => (exec_discards h (discardsFrame_iff.mpr hi)).1, ?_, ?_, ?_, ?_,
    fun ha hd hi => (exec_keeps_mode_frame h ha hd hi).2, exec_illegal_frame h⟩, fun _ => rfl,
    fun s => State.Inv.frame_legal⟩
  · rintro rfl
    exact encFinish_frame h
  · rintro rfl
    exact decFinish_frame h
  · rintro ⟨d, rfl⟩
    exact encByte_frame h
  · rintro rfl
    exact decTimeout_frame h

end Sys2Proof.Machine
end

section
/-! PROOFS. The input port, the wire order of the CRC, and the two FINISH commands (20_memory.md R31, R34, R37,
R41). -/

namespace Sys2Proof.Machine

variable {s t : State} {f : List Byte}

/-! ## The step by the oldest input -/

theorem step_of_no_input (h : s.inputs = []) : step s = .next s := by simp [step, takeInput, h]

theorem step_of_reset {rest : List Input} (h : s.inputs = .reset :: rest) :
    step s = .next (applyReset { s with inputs := rest }) := by simp [step, takeInput, h]

/-! ## Wire order -/

@[simp] theorem lo8_wireWord (lo hi : Byte) : lo8 (wireWord lo hi) = lo :=
  BitVec.extractLsb'_append_eq_right

@[simp] theorem hi8_wireWord (lo hi : Byte) : hi8 (wireWord lo hi) = hi :=
  BitVec.extractLsb'_append_eq_left

/-- A word is its two wire bytes, as a command word is its two fields. -/
@[simp] theorem wireWord_lo8_hi8 (c : Word) : wireWord (lo8 c) (hi8 c) = c := cmdWord_fields c

/-- The decoder's comparison is that of the CRC of the body with the transmitted CRC (R68). -/
theorem crcAccepts_iff : crcAccepts f = true ↔ crc16 (crcBody f) = transmittedCrc f := beq_iff_eq

/-- The transmitted CRC of the frame held is read from the last two positions. -/
theorem State.Holds.transmittedCrc_eq {lo hi : Byte} (hf : s.Holds f) (h2 : 2 ≤ f.length)
    (hlo : s.buf.read (s.len.toNat - 2) = some lo) (hhi : s.buf.read (s.len.toNat - 1) = some hi) :
    transmittedCrc f = wireWord lo hi := by
  obtain ⟨hl, -, hr⟩ := hf
  rw [← hl, hr _ (by omega)] at hlo hhi
  simp [transmittedCrc, List.getD_eq_getElem?_getD, hlo, hhi]

/-! ## LEN within the buffer -/

/-- An index of the buffer is a word, so `LEN` does not wrap below the capacity (00_scope.md R7). -/
theorem toNat_len_add {k : Nat} (hc : s.config.wf = true) (hk : s.len.toNat + k ≤ s.config.maxAdu) :
    (s.len + BitVec.ofNat 16 k).toNat = s.len.toNat + k := by
  obtain ⟨-, hmax⟩ : 143 ≤ s.config.maxAdu ∧ s.config.maxAdu ≤ 65535 := by simpa [Config.wf] using hc
  simp only [BitVec.toNat_add, BitVec.toNat_ofNat]
  omega

/-! ## ENC_FINISH and DEC_FINISH -/

/-- An ENC_FINISH that completes the ADU responds with its CRC and appends the CRC's two bytes. -/
theorem encFinish_appends_crc (h : exec .encFinish s = .next t) (hs : s.mode = .encOpen)
    (ht : t.mode = .encDone) :
    t.responses = s.responses ++ [respWord .ok t.crc] ∧ t.len = s.len + 2 ∧
      t.buf.read s.len.toNat = some (lo8 t.crc) ∧ t.buf.read (s.len.toNat + 1) = some (hi8 t.crc) := by
  obtain ⟨hs', -⟩ | ⟨-, -, rfl⟩ | ⟨-, -, -, f, -, rfl⟩ := encFinish_cases h
  · exact (hs' hs).elim
  · cases ht
  · refine ⟨rfl, rfl, ?_, Memory.read_write_same ..⟩
    exact (Memory.read_write_other _ _ (by omega)).trans (Memory.read_write_same ..)

/-- DEC_FINISH on a frame that passes the length checks: the CRC comparison decides (R68). -/
theorem decFinish_of_holds (hs : s.mode = .decOpen) (ho : s.ovf = false) (hf : s.Holds f)
    (h4 : 4 ≤ f.length) :
    exec .decFinish s = .next (if crcAccepts f then
        succeed (s.len - 3) { s with crc := crc16 (crcBody f), rdptr := 1, mode := .decDone, frame := .ok }
      else frameFail .frameCrc { s with crc := crc16 (crcBody f) }) := by
  refine exec_of_ownOutcome (by simp [hs, legalIn])
    ⟨hs, .inr ⟨ho, hf.1 ▸ h4, f, bufBytes_of_holds hf, ?_⟩⟩
  cases hc : crcAccepts f
  · exact .inl ⟨rfl, rfl⟩
  · exact .inr ⟨rfl, rfl⟩

/-- DEC_FINISH opens the readout exactly when the CRC comparison succeeds. -/
theorem decFinish_mode_iff (hs : s.mode = .decOpen) (ho : s.ovf = false) (hf : s.Holds f)
    (h4 : 4 ≤ f.length) :
    ∃ t, exec .decFinish s = .next t ∧
      (t.mode = .decDone ↔ crc16 (crcBody f) = transmittedCrc f) := by
  refine ⟨_, decFinish_of_holds hs ho hf h4, ?_⟩
  rw [← crcAccepts_iff]
  cases crcAccepts f <;> simp

end Sys2Proof.Machine
end

section
/-! PROOFS. The obligations of 20_memory.md on the input port and the byte order of the CRC (R34, R37, R41). -/

namespace Sys2Proof.Machine

/-- Settles O4, by the three kinds of oldest input. -/
theorem stepRunsTheDecodedCommand : Obligations.StepRunsTheDecodedCommand :=
  ⟨fun _ _ _ _ => step_of_command, fun _ => step_of_no_input, fun _ _ => step_of_reset⟩

/-- Settles O53: the encoder's two bytes follow the frame at the old `LEN`, which is two below the new one, and
the last two bytes of a frame held are the CRC the decoder compares with. -/
theorem crcBytesLieLowByteFirst : Obligations.CrcBytesLieLowByteFirst := by
  refine ⟨fun c => ⟨rfl, wireWord_lo8_hi8 c⟩, fun lo hi => ⟨rfl, lo8_wireWord lo hi, hi8_wireWord lo hi⟩,
    fun s t h hs ht hroom hc => ?_, fun s f lo hi hs ho hf h4 hlo hhi => ?_⟩
  · obtain ⟨hresp, hlen, hlo, hhi⟩ := encFinish_appends_crc h hs ht
    have hlen' : t.len.toNat = s.len.toNat + 2 := by rw [hlen]; exact toNat_len_add hc hroom
    rw [hlen']
    exact ⟨hresp, hlo, hhi⟩
  · have hcrc : transmittedCrc f = hi ++ lo := hf.transmittedCrc_eq (by omega) hlo hhi
    exact hcrc ▸ decFinish_mode_iff hs ho hf h4

end Sys2Proof.Machine
end

section
/-! PROOFS. The decoder, from an opcode and an ARG byte: which words are commands, which are reserved, and how
the opcode map says it (30_encoding.md R45 to R51). -/

namespace Sys2Proof
open Laws.EncodedFields

variable {i j : Instr} {w : Word} {op arg : Byte}

/-! ## Decoding a word given by its fields -/

/-- The command with another operand; a z8 command has none. -/
def Instr.withOperand (i : Instr) (b : Byte) : Instr :=
  match i with
  | .crcByte _ => .crcByte b
  | .encStart _ => .encStart b
  | .encByte _ => .encByte b
  | .decByte _ => .decByte b
  | _ => i

@[simp] theorem opcodeOf_withOperand (i : Instr) (b : Byte) : opcodeOf (i.withOperand b) = opcodeOf i := by
  cases i <;> rfl

@[simp] theorem argFormOf_withOperand (i : Instr) (b : Byte) :
    argFormOf (i.withOperand b) = argFormOf i := by
  cases i <;> rfl

theorem withOperand_argOf (i : Instr) : i.withOperand (argOf i) = i := by cases i <;> rfl

theorem argOf_withOperand (h : argFormOf i = .z8 → arg = 0) : argOf (i.withOperand arg) = arg := by
  cases i
  case crcByte | encStart | encByte | decByte => rfl
  all_goals exact (h rfl).symm

theorem argOf_of_z8 (h : argFormOf i = .z8) : argOf i = 0 := by
  cases i
  case crcByte | encStart | encByte | decByte => cases h
  all_goals rfl

/-- After the opcode of a z8 command only the ARG byte is left to check (R50). -/
theorem decode_cmdWord_of_z8 (h : argFormOf i = .z8) (arg : Byte) :
    decode (cmdWord (opcodeOf i) arg) = z8Command (opcodeOf i) arg i := by
  cases i
  case crcByte | encStart | encByte | decByte => cases h
  all_goals simp [decode, opField_cmdWord, argField_cmdWord, opcodeOf]

/-- After the opcode of a d8 or a8 command any ARG byte is its operand (R46). -/
theorem decode_cmdWord_of_operand (h : argFormOf i ≠ .z8) (arg : Byte) :
    decode (cmdWord (opcodeOf i) arg) = .ok (i.withOperand arg) := by
  cases i
  case crcByte | encStart | encByte | decByte =>
    simp [decode, opField_cmdWord, argField_cmdWord, opcodeOf, Instr.withOperand]
  all_goals exact (h rfl).elim

theorem decode_encode (i : Instr) : decode (encode i) = .ok i := by
  by_cases h : argFormOf i = .z8
  · rw [encode, decode_cmdWord_of_z8 h, z8Command_eq_ok]
    exact ⟨argOf_of_z8 h, rfl⟩
  · rw [encode, decode_cmdWord_of_operand h, withOperand_argOf]

/-- A word decodes to a command exactly when its fields are the command's. -/
theorem decode_eq_ok_iff : decode w = .ok i ↔ opField w = opcodeOf i ∧ argField w = argOf i := by
  refine ⟨fields_of_decode, fun ⟨hop, harg⟩ => ?_⟩
  rw [← cmdWord_fields w, hop, harg]
  exact decode_encode i

/-- A word is a command exactly when its opcode is a command's, and its ARG byte zero where the form is z8. -/
theorem exists_decode_iff :
    (∃ j, decode w = .ok j) ↔ ∃ i, opField w = opcodeOf i ∧ (argFormOf i = .z8 → argField w = 0) := by
  constructor
  · rintro ⟨j, hj⟩
    obtain ⟨hop, harg⟩ := decode_eq_ok_iff.mp hj
    exact ⟨j, hop, fun hz => harg.trans (argOf_of_z8 hz)⟩
  · rintro ⟨i, hop, harg⟩
    refine ⟨i.withOperand (argField w), decode_eq_ok_iff.mpr ⟨?_, (argOf_withOperand harg).symm⟩⟩
    rw [opcodeOf_withOperand, hop]

/-- Decoding is total: a word is a command or reserved (R51). -/
theorem decode_total (w : Word) : (∃ i, decode w = .ok i) ∨ ∃ r, decode w = .error r := by
  cases decode w with
  | ok i => exact .inl ⟨i, rfl⟩
  | error r => exact .inr ⟨r, rfl⟩

theorem exists_decode_error_iff : (∃ r, decode w = .error r) ↔ ¬ ∃ i, decode w = .ok i := by
  cases decode w <;> simp

/-- A z8 command's opcode with a nonzero ARG is reserved (R50). -/
theorem decode_nonzero_arg (h : argFormOf i = .z8) (harg : arg ≠ 0) :
    decode (cmdWord (opcodeOf i) arg) = .error (.nonzeroArg (opcodeOf i) arg) := by
  rw [decode_cmdWord_of_z8 h, z8Command, if_neg harg]

/-! ## The opcode map -/

/-- The commands in the order of the map, one of each, with operand zero. -/
def mapCommands : List Instr :=
  [.nop, .crcInit, .crcByte 0, .crcRead, .encStart 0, .encByte 0, .encFinish, .decStart, .decByte 0,
    .decFinish, .decTimeout, .rdByte, .rdLen, .rdAddr, .rdStatus, .clrStatus, .abort]

theorem withOperand_zero_mem_mapCommands (i : Instr) : i.withOperand 0 ∈ mapCommands := by
  cases i <;> simp [Instr.withOperand, mapCommands]

/-- No two commands of the map have the same opcode. -/
theorem opcodeOf_injective_on_mapCommands (hi : i ∈ mapCommands) (hj : j ∈ mapCommands)
    (h : opcodeOf i = opcodeOf j) : i = j :=
  List.inj_on_of_nodup_map (show (mapCommands.map opcodeOf).Nodup by decide) hi hj h

/-- `exists_decode_iff` over the seventeen commands of the map. -/
theorem exists_decode_iff_mapCommands :
    (∃ j, decode w = .ok j) ↔
      ∃ i ∈ mapCommands, opField w = opcodeOf i ∧ (argFormOf i = .z8 → argField w = 0) := by
  rw [exists_decode_iff]
  constructor
  · rintro ⟨i, hi⟩
    exact ⟨i.withOperand 0, withOperand_zero_mem_mapCommands i, by simpa using hi⟩
  · rintro ⟨i, -, hi⟩
    exact ⟨i, hi⟩

/-- The opcodes of the map, in its order. -/
def mapOpcodes : List Byte := mapCommands.map opcodeOf

/-- The opcodes of the z8 commands, in the order of the map. -/
def z8Opcodes : List Byte := (mapCommands.filter fun i => argFormOf i == .z8).map opcodeOf

theorem mem_z8Opcodes : op ∈ z8Opcodes ↔ ∃ i ∈ mapCommands, argFormOf i = .z8 ∧ opcodeOf i = op := by
  simp [z8Opcodes, and_assoc]

/-- The reserved words: no opcode of the map, or a z8 command's with a nonzero ARG (R50). -/
theorem exists_decode_error_iff_opcodes :
    (∃ r, decode w = .error r) ↔
      (opField w ∉ mapOpcodes ∨ (opField w ∈ z8Opcodes ∧ argField w ≠ 0)) := by
  rw [exists_decode_error_iff, exists_decode_iff_mapCommands, mem_z8Opcodes]
  constructor
  · intro h
    by_cases hop : opField w ∈ mapOpcodes
    · obtain ⟨i, hi, hiop⟩ := List.mem_map.mp hop
      have hz : ¬ (argFormOf i = .z8 → argField w = 0) := fun hz => h ⟨i, hi, hiop.symm, hz⟩
      obtain ⟨hform, harg⟩ := Classical.not_imp.mp hz
      exact .inr ⟨⟨i, hi, hform, hiop⟩, harg⟩
    · exact .inl hop
  · rintro (hop | ⟨⟨i, hi, hform, hiop⟩, harg⟩) ⟨j, hj, hjop, hz⟩
    · exact hop (List.mem_map.mpr ⟨j, hj, hjop.symm⟩)
    · obtain rfl := opcodeOf_injective_on_mapCommands hi hj (hiop.trans hjop)
      exact harg (hz hform)

/-! ## The rows as patterns and masks -/

theorem cmdWord_inj {op' arg' : Byte} : cmdWord op arg = cmdWord op' arg' ↔ op = op' ∧ arg = arg' := by
  refine ⟨fun h => ⟨?_, ?_⟩, fun ⟨hop, harg⟩ => by rw [hop, harg]⟩
  · rw [← opField_cmdWord op arg, h, opField_cmdWord]
  · rw [← argField_cmdWord op arg, h, argField_cmdWord]

/-- A command word is its pattern with the operand below it (R52). -/
theorem cmdWord_eq_or (op arg : Byte) : cmdWord op arg = cmdWord op 0 ||| arg.setWidth 16 := by
  have hz : arg.setWidth 16 = cmdWord 0 arg := BitVec.setWidth_eq_append (by decide)
  rw [hz, cmdWord, cmdWord, cmdWord, BitVec.or_append]
  simp

theorem decode_or_operand (h : argFormOf i ≠ .z8) (b : Byte) :
    decode (cmdWord (opcodeOf i) 0 ||| b.setWidth 16) = .ok (i.withOperand b) := by
  rw [← cmdWord_eq_or, decode_cmdWord_of_operand h]

/-- The mask 0xFF00 keeps the opcode. -/
theorem and_opMask (w : Word) : w &&& 0xFF00 = cmdWord (opField w) 0 := by
  have hmask : (0xFF00 : Word) = cmdWord (BitVec.allOnes 8) 0 := rfl
  calc w &&& 0xFF00 = cmdWord (opField w) (argField w) &&& cmdWord (BitVec.allOnes 8) 0 := by
        rw [cmdWord_fields, hmask]
    _ = cmdWord (opField w) 0 := by
        rw [cmdWord, cmdWord, BitVec.and_append, BitVec.and_allOnes]
        simp [cmdWord]

/-- A command's row of the opcode map. -/
def rowOf (i : Instr) : OpRow :=
  opRow (String.ofList (Machine.mnemonicText i)) (argFormOf i) (cmdWord (opcodeOf i) 0)

theorem opcodeMap_eq : opcodeMap = mapCommands.map rowOf := rfl

/-- A word is in a command's row when its opcode is the command's, and its ARG byte zero where the form is z8. -/
theorem mem_rowOf_iff :
    w &&& (rowOf i).mask = (rowOf i).pattern ↔
      opField w = opcodeOf i ∧ (argFormOf i = .z8 → argField w = 0) := by
  have hpattern : (rowOf i).pattern = cmdWord (opcodeOf i) 0 := rfl
  by_cases h : argFormOf i = .z8
  · have hmask : (rowOf i).mask = BitVec.allOnes 16 := by simp only [rowOf, opRow, h]; rfl
    have hw : w = cmdWord (opcodeOf i) 0 ↔ opField w = opcodeOf i ∧ argField w = 0 := by
      rw [← cmdWord_inj, cmdWord_fields]
    rw [hmask, BitVec.and_allOnes, hpattern, hw]
    simp [h]
  · have hmask : (rowOf i).mask = 0xFF00 := by
      cases hf : argFormOf i
      case z8 => exact (h hf).elim
      all_goals simp only [rowOf, opRow, hf]
    rw [hmask, and_opMask, hpattern, cmdWord_inj]
    simp [h]

theorem exists_decode_iff_row :
    (∃ i, decode w = .ok i) ↔ ∃ r ∈ opcodeMap, w &&& r.mask = r.pattern := by
  rw [exists_decode_iff_mapCommands, opcodeMap_eq]
  simp only [List.mem_map, exists_exists_and_eq_and, mem_rowOf_iff]

/-- The rows are disjoint, because their opcodes are. -/
theorem opcodeMap_row_unique {r₁ r₂ : OpRow} (h₁ : r₁ ∈ opcodeMap) (h₂ : r₂ ∈ opcodeMap)
    (hw₁ : w &&& r₁.mask = r₁.pattern) (hw₂ : w &&& r₂.mask = r₂.pattern) : r₁ = r₂ := by
  rw [opcodeMap_eq] at h₁ h₂
  obtain ⟨i, hi, rfl⟩ := List.mem_map.mp h₁
  obtain ⟨j, hj, rfl⟩ := List.mem_map.mp h₂
  obtain ⟨hopi, -⟩ := mem_rowOf_iff.mp hw₁
  obtain ⟨hopj, -⟩ := mem_rowOf_iff.mp hw₂
  rw [opcodeOf_injective_on_mapCommands hi hj (hopi.symm.trans hopj)]

end Sys2Proof

namespace Sys2Proof.Machine

variable {s : State} {w : Word} {rest : List Input}

/-! ## What a step does with a command word that fails before its own rule -/

/-- A reserved word fails with ILLEGAL_COMMAND (60_exceptions.md R81). -/
theorem step_of_reserved {r : Reject} (hin : s.inputs = .cmd w :: rest) (hd : decode w = .error r) :
    step s = .next (afterError .illegalCommand { s with inputs := rest }) := by
  rw [← fail_eq_afterError rfl]
  simp [step, takeInput, hin, hd, execReserved]

/-- A command outside its row of R18 fails with ILLEGAL_SEQUENCE (60_exceptions.md R82). -/
theorem exec_of_not_mem_legalModes {i : Instr} (h : s.mode ∉ legalModes i) :
    exec i s = .next (afterError .illegalSequence s) := by
  have hl : legalIn i s.mode = false := by simpa [mem_legalModes] using h
  rw [exec_of_illegal hl, fail_eq_afterError rfl]

/-- DEC_FINISH fails with FRAME_LENGTH on a dropped byte or a short frame, whatever the CRC (R68). -/
theorem decFinish_of_bad_length (hm : s.mode = .decOpen) (h : s.ovf = true ∨ s.len.toNat < 4) :
    exec .decFinish s = .next (afterFrameError .frameLength s) :=
  exec_of_ownOutcome (by simp [hm, legalIn]) ⟨hm, .inl ⟨h, rfl⟩⟩

/-- DEC_FINISH fails with FRAME_CRC when the length is good and the CRC is not (R68). -/
theorem decFinish_of_bad_crc {f : List Byte} (hm : s.mode = .decOpen) (ho : s.ovf = false)
    (hf : s.Holds f) (h4 : 4 ≤ f.length) (hc : crc16 (crcBody f) ≠ transmittedCrc f) :
    exec .decFinish s = .next (afterFrameError .frameCrc { s with crc := crc16 (crcBody f) }) := by
  rw [decFinish_of_holds hm ho hf h4, if_neg (mt crcAccepts_iff.mp hc), frameFail_eq_afterFrameError]

end Sys2Proof.Machine
end

section
/-! PROOFS. The obligations of 30_encoding.md on the encoding, the reserved words and the order of the checks
(R45 to R51). -/

namespace Sys2Proof.Machine

/-- Settles O1: the opcode and the ARG byte of a word determine the command, and the other way round. -/
theorem decodeAndEncodeAreInverse : Obligations.DecodeAndEncodeAreInverse :=
  ⟨decode_encode, fun _ _ => encode_of_decode⟩

/-- Settles O2: a z8 row is the word of its command, a d8 or a8 row takes any operand, and the rows are those of
the seventeen commands, which differ in their opcodes. -/
theorem opcodeMapDecodes : Obligations.OpcodeMapDecodes :=
  ⟨decode_encode .nop, decode_encode .crcInit, decode_or_operand (i := .crcByte 0) nofun,
    decode_encode .crcRead, decode_or_operand (i := .encStart 0) nofun,
    decode_or_operand (i := .encByte 0) nofun, decode_encode .encFinish, decode_encode .decStart,
    decode_or_operand (i := .decByte 0) nofun, decode_encode .decFinish, decode_encode .decTimeout,
    decode_encode .rdByte, decode_encode .rdLen, decode_encode .rdAddr, decode_encode .rdStatus,
    decode_encode .clrStatus, decode_encode .abort, fun _ => exists_decode_iff_row,
    fun _ _ h₁ _ h₂ => opcodeMap_row_unique h₁ h₂, rfl⟩

/-- Settles O3: the two lists of opcodes are those of the map. -/
theorem reservedEncodingsFailAsIllegalCommand : Obligations.ReservedEncodingsFailAsIllegalCommand :=
  ⟨fun _ => exists_decode_error_iff_opcodes, by decide +kernel, fun _ _ _ _ => step_of_reserved⟩

/-- Settles O7, check by check in the order of R51. -/
theorem firstFailingCheckDecides : Obligations.FirstFailingCheckDecides := by
  refine ⟨decode_total, fun s w rest hin => ⟨fun r => step_of_reserved hin, fun i hd hm => ?_⟩,
    fun i arg => decode_nonzero_arg, fun s => decFinish_of_bad_length, fun s f => decFinish_of_bad_crc⟩
  exact (step_of_command hin hd).trans (exec_of_not_mem_legalModes hm)

end Sys2Proof.Machine
end

section
/-! PROOFS. Every command keeps the invariant of 10_state.md R28, and from a state that meets it every command
answers a next state (60_exceptions.md R78, 70_reset_and_hazards.md R94). -/

namespace Sys2Proof.Machine

variable {i : Instr} {s t : State} {c : Config} {m : Memory} {n : Nat} {f : List Byte}

/-! ## The invariant in two parts: the buffer, and the line of the mode -/

/-- What the invariant says of the buffer: the parameter is in range, the cells are canonical and existing, and
the first `n` bytes have been written. -/
structure BufferInv (c : Config) (m : Memory) (n : Nat) : Prop where
  config : c.wf = true
  canonical : m.wf
  within : ∀ x ∈ m, x.1 < c.maxAdu
  written : ∀ i < n, (m.read i).isSome = true

/-- The line of R28 for the mode the state is in. -/
inductive State.ModeInv (s : State) : Prop where
  | idle (hm : s.mode = .idle) (h : s.IdleInv)
  | encOpen (hm : s.mode = .encOpen) (h : s.EncOpenInv)
  | encDone (hm : s.mode = .encDone) (h : s.EncDoneInv)
  | decOpen (hm : s.mode = .decOpen) (h : s.DecOpenInv)
  | decDone (hm : s.mode = .decDone) (h : s.DecDoneInv)

theorem State.Inv.bufferInv (hs : s.Inv) : BufferInv s.config s.buf s.len.toNat :=
  ⟨hs.config, hs.canonical, hs.within, hs.written⟩

theorem inv_of_parts (hb : BufferInv s.config s.buf s.len.toNat) (hl : s.last ≠ .noVerdict)
    (hm : s.ModeInv) : s.Inv := by
  obtain ⟨hm, h⟩ | ⟨hm, h⟩ | ⟨hm, h⟩ | ⟨hm, h⟩ | ⟨hm, h⟩ := hm
  all_goals
    refine ⟨hb.config, hb.canonical, hb.within, hb.written, hl, ?_, ?_, ?_, ?_, ?_⟩
    all_goals
      intro hk
      cases hm.symm.trans hk <;> exact h

/-- The invariant says nothing of CRC, STICKY, the inputs and the responses, and of LAST only that it is not
NONE. -/
theorem State.Inv.of_same_frame {crc : Word} {last : Code} {sticky : Bool} {inputs : List Input}
    {responses : List Resp} (hs : s.Inv) (hl : last ≠ .noVerdict) :
    State.Inv { s with crc := crc, last := last, sticky := sticky, inputs := inputs,
                       responses := responses } :=
  ⟨hs.config, hs.canonical, hs.within, hs.written, hl, hs.idle, hs.encOpen, hs.encDone, hs.decOpen,
    hs.decDone⟩

theorem State.Inv.with_inputs (hs : s.Inv) (inputs : List Input) : State.Inv { s with inputs := inputs } :=
  hs.of_same_frame hs.lastCode

theorem State.Inv.after_respond {code : Code} {data : Word} (hs : s.Inv) : (respond code data s).Inv :=
  hs.of_same_frame hs.lastCode

theorem State.Inv.after_succeed {data crc : Word} {sticky : Bool} (hs : s.Inv) :
    (succeed data { s with crc := crc, sticky := sticky }).Inv :=
  hs.of_same_frame (last := .ok) nofun

theorem State.Inv.after_fail {code : Code} (hs : s.Inv) (hc : code ≠ .noVerdict) : (fail code s).Inv :=
  hs.of_same_frame hc

theorem BufferInv.le_maxAdu (hb : BufferInv c m n) : 143 ≤ c.maxAdu := by
  have h : 143 ≤ c.maxAdu ∧ c.maxAdu ≤ 65535 := by simpa [Config.wf] using hb.config
  exact h.1

theorem BufferInv.shorten {k : Nat} (hb : BufferInv c m n) (hk : k ≤ n) : BufferInv c m k :=
  ⟨hb.config, hb.canonical, hb.within, fun i hi => hb.written i (hi.trans_le hk)⟩

theorem BufferInv.append (hb : BufferInv c m n) (hn : n < c.maxAdu) (b : Byte) :
    BufferInv c (m.write n b) (n + 1) where
  config := hb.config
  canonical := Memory.wf_write hb.canonical n b
  within := Memory.within_write b hb.within hn
  written i hi := by
    rw [Memory.read_write]
    split
    · rfl
    · exact hb.written i (by omega)

/-- `LEN` is within the buffer in every mode. -/
theorem State.Inv.len_le (hs : s.Inv) : s.len.toNat ≤ s.config.maxAdu := by
  cases hm : s.mode
  case idle => simp [(hs.idle hm).1]
  case encOpen =>
    obtain ⟨-, hl, -⟩ := hs.encOpen hm
    omega
  case encDone =>
    obtain ⟨-, hl, -⟩ := hs.encDone hm
    exact hl
  case decOpen => exact (hs.decOpen hm).1
  case decDone =>
    obtain ⟨-, hl, -⟩ := hs.decDone hm
    exact hl

/-- The readable region is within the frame. -/
theorem State.Inv.readEnd_le (hs : s.Inv) : (readEnd s).toNat ≤ s.len.toNat := by
  cases hm : s.mode
  case decDone =>
    obtain ⟨h4, -⟩ := hs.decDone hm
    simp only [readEnd, hm]
    bv_omega
  all_goals simp [readEnd, hm]

theorem State.Inv.holds_held (hs : s.Inv) : s.Holds s.held := Machine.holds_held hs.written hs.len_le

/-- A byte below `LEN` can be read. -/
theorem State.Inv.bufRead_ok (hs : s.Inv) {k : Nat} (hk : k < s.len.toNat) : ∃ b, bufRead s k = .ok b := by
  obtain ⟨b, hb⟩ := Option.isSome_iff_exists.mp (hs.written k hk)
  exact ⟨b, bufRead_eq_ok.mpr ⟨hk.trans_le hs.len_le, hb⟩⟩

/-! ## The frame with bytes appended -/

/-- Writing a byte behind a list of bytes appends it. -/
theorem Memory.read_write_append (b : Byte) (h : ∀ k < f.length, m.read k = f[k]?) :
    ∀ k < (f ++ [b]).length, (m.write f.length b).read k = (f ++ [b])[k]? := by
  intro k hk
  rw [Memory.read_write]
  split
  case isTrue hkf => simp [hkf]
  case isFalse hkf =>
    have hlt : k < f.length := by simp at hk; omega
    rw [h k hlt, List.getElem?_append_left hlt]

/-- The decoder accepts bytes followed by their CRC in wire order. -/
theorem crcAccepts_append_wireBytes (f : List Byte) : crcAccepts (f ++ wireBytes (crc16 f)) = true := by
  rw [crcAccepts_iff]
  simp [crcBody, transmittedCrc, wireBytes]

/-- With the CRC bytes of the frame written behind it, the buffer holds a frame the decoder accepts. -/
theorem crcAccepts_held_of_crc_written (hf : s.Holds f) (ht : t.len.toNat = s.len.toNat + 2)
    (hmax : t.len.toNat ≤ t.config.maxAdu)
    (hbuf : t.buf = (s.buf.write s.len.toNat (lo8 (crc16 f))).write (s.len.toNat + 1) (hi8 (crc16 f))) :
    crcAccepts t.held = true := by
  obtain ⟨hl, -, hr⟩ := hf
  have hlo := Memory.read_write_append (lo8 (crc16 f)) hr
  have hhi := Memory.read_write_append (hi8 (crc16 f)) hlo
  have hframe : f ++ [lo8 (crc16 f)] ++ [hi8 (crc16 f)] = f ++ wireBytes (crc16 f) := by simp [wireBytes]
  have hbuf' : t.buf = (s.buf.write f.length (lo8 (crc16 f))).write (f ++ [lo8 (crc16 f)]).length
      (hi8 (crc16 f)) := by simp [hbuf, hl]
  rw [hframe, ← hbuf'] at hhi
  have ht' : (f ++ wireBytes (crc16 f)).length = t.len.toNat := by simp [wireBytes, hl, ht]
  rw [held_of_holds ⟨ht', ht' ▸ hmax, hhi⟩]
  exact crcAccepts_append_wireBytes f

/-! ## Every command keeps the invariant -/

/-- A frame failure leaves IDLE, with nothing held. -/
theorem State.Inv.after_frameFail {code : Code} {crc : Word} (hs : s.Inv)
    (hc : code ∈ [Code.frameCrc, .frameLength, .timeout, .encLength]) :
    (frameFail code { s with crc := crc }).Inv := by
  refine inv_of_parts (hs.bufferInv.shorten (Nat.zero_le _)) ?_
    (.idle rfl ⟨rfl, rfl, rfl, List.mem_cons_of_mem _ hc⟩)
  rintro rfl
  simp at hc

/-- ENC_BYTE and DEC_BYTE append at `LEN`, which does not wrap. -/
theorem State.Inv.append (hs : s.Inv) (hl : s.len.toNat < s.config.maxAdu) (d : Byte) :
    (s.len + 1).toNat = s.len.toNat + 1 ∧
      BufferInv s.config (s.buf.write s.len.toNat d) (s.len + 1).toNat := by
  have hlen : (s.len + 1).toNat = s.len.toNat + 1 := toNat_len_add (k := 1) hs.config hl
  exact ⟨hlen, hlen ▸ hs.bufferInv.append hl d⟩

theorem State.Inv.after_encByte {d : Byte} (hs : s.Inv) (h : OwnOutcome (.encByte d) s t) : t.Inv := by
  obtain ⟨hm, ⟨-, rfl⟩ | ⟨hfull, hl, rfl⟩⟩ := h
  · exact hs.after_frameFail (by simp)
  · obtain ⟨hlen, hb⟩ := hs.append hl d
    obtain ⟨hmin, hmax, hr, ho, hf⟩ := hs.encOpen hm
    have hroom : (s.len + 1).toNat + 2 ≤ s.config.maxAdu := by omega
    exact inv_of_parts hb nofun (.encOpen hm ⟨hlen ▸ Nat.le_add_left .., hroom, hr, ho, hf⟩)

theorem State.Inv.after_encFinish (hs : s.Inv) (h : OwnOutcome .encFinish s t) : t.Inv := by
  obtain ⟨hm, ⟨-, rfl⟩ | ⟨h2, hl, f, hf, rfl⟩⟩ := h
  · exact hs.after_frameFail (by simp)
  · obtain ⟨-, -, -, ho, -⟩ := hs.encOpen hm
    have hlen : (s.len + 2).toNat = s.len.toNat + 2 := toNat_len_add (k := 2) hs.config hl
    have hb := (hs.bufferInv.append (by omega) (lo8 (crc16 f))).append hl (hi8 (crc16 f))
    have hmax : (s.len + 2).toNat ≤ s.config.maxAdu := hlen ▸ hl
    exact inv_of_parts (hlen ▸ hb) nofun
      (.encDone rfl ⟨hlen ▸ by omega, hmax, Nat.zero_le _, ho, rfl,
        crcAccepts_held_of_crc_written hf hlen hmax rfl⟩)

theorem State.Inv.after_decByte {d : Byte} (hs : s.Inv) (h : OwnOutcome (.decByte d) s t) : t.Inv := by
  obtain ⟨hm, ⟨hfull, rfl⟩ | ⟨hl, rfl⟩⟩ := h
  · obtain ⟨hmax, hr, hf, -⟩ := hs.decOpen hm
    exact inv_of_parts hs.bufferInv nofun (.decOpen hm ⟨hmax, hr, hf, fun _ => hfull⟩)
  · obtain ⟨hlen, hb⟩ := hs.append hl d
    obtain ⟨-, hr, hf, ho⟩ := hs.decOpen hm
    exact inv_of_parts hb nofun
      (.decOpen hm ⟨hlen ▸ hl, hr, hf, fun hovf => absurd (ho hovf) (by omega)⟩)

theorem State.Inv.after_decFinish (hs : s.Inv) (h : OwnOutcome .decFinish s t) : t.Inv := by
  obtain ⟨hm, ⟨-, rfl⟩ | ⟨ho, h4, f, hb, ⟨-, rfl⟩ | ⟨hc, rfl⟩⟩⟩ := h
  · exact hs.after_frameFail (by simp)
  · exact hs.after_frameFail (by simp)
  · have hheld : s.held = f := held_of_holds (holds_of_bufBytes hb hs.len_le)
    exact inv_of_parts hs.bufferInv nofun
      (.decDone rfl ⟨h4, hs.len_le, le_rfl, Nat.le_of_succ_le h4, ho, rfl, hheld ▸ hc⟩)

theorem State.Inv.after_rdByte (hs : s.Inv) (h : OwnOutcome .rdByte s t) : t.Inv := by
  obtain ⟨hm, ⟨-, rfl⟩ | ⟨hr, b, -, rfl⟩⟩ := h
  · exact hs.after_fail nofun
  · obtain hm | hm := hm
    · obtain ⟨h4, hl, -, ho, hf, hc⟩ := hs.encDone hm
      simp only [readEnd, hm] at hr
      have hptr : (s.rdptr + 1).toNat ≤ s.len.toNat := by bv_omega
      exact inv_of_parts hs.bufferInv nofun (.encDone hm ⟨h4, hl, hptr, ho, hf, hc⟩)
    · obtain ⟨h4, hl, -, -, ho, hf, hc⟩ := hs.decDone hm
      simp only [readEnd, hm] at hr
      have hptr : 1 ≤ (s.rdptr + 1).toNat ∧ (s.rdptr + 1).toNat + 2 ≤ s.len.toNat := by bv_omega
      exact inv_of_parts hs.bufferInv nofun (.decDone hm ⟨h4, hl, hptr.1, hptr.2, ho, hf, hc⟩)

theorem OwnOutcome.keeps_inv (h : OwnOutcome i s t) (hs : s.Inv) : t.Inv := by
  cases i
  case encByte => exact hs.after_encByte h
  case encFinish => exact hs.after_encFinish h
  case decByte => exact hs.after_decByte h
  case decFinish => exact hs.after_decFinish h
  case rdByte => exact hs.after_rdByte h
  case encStart a =>
    obtain ⟨h0, rfl⟩ := h
    have hb := (hs.bufferInv.shorten (Nat.zero_le _)).append h0 a
    have hroom : (1 : Word).toNat + 2 ≤ s.config.maxAdu := le_trans (by decide) hb.le_maxAdu
    exact inv_of_parts hb nofun (.encOpen rfl ⟨le_rfl, hroom, rfl, rfl, rfl⟩)
  case decStart =>
    obtain rfl := h
    exact inv_of_parts (hs.bufferInv.shorten (Nat.zero_le _)) nofun
      (.decOpen rfl ⟨Nat.zero_le _, rfl, rfl, nofun⟩)
  case abort =>
    obtain rfl := h
    exact inv_of_parts (hs.bufferInv.shorten (Nat.zero_le _)) nofun
      (.idle rfl ⟨rfl, rfl, rfl, List.mem_cons_self ..⟩)
  case decTimeout =>
    obtain ⟨-, rfl⟩ := h
    exact hs.after_frameFail (by simp)
  case rdAddr =>
    obtain ⟨-, b, -, rfl⟩ := h
    exact hs.after_succeed
  case nop | rdStatus =>
    obtain rfl := h
    exact hs.after_respond
  case crcInit | crcByte | crcRead | rdLen | clrStatus =>
    obtain rfl := h
    exact hs.after_succeed

theorem exec_keeps_inv (hs : s.Inv) (h : exec i s = .next t) : t.Inv := by
  obtain ⟨-, rfl⟩ | ⟨-, ho⟩ := exec_cases h
  · exact hs.after_fail nofun
  · exact ho.keeps_inv hs

/-! ## Every command answers a next state -/

/-- In its row of R18 a command has an outcome: whatever byte or room it needs is there. -/
theorem State.Inv.exists_ownOutcome (hs : s.Inv) (hl : legalIn i s.mode = true) :
    ∃ t, OwnOutcome i s t := by
  cases i
  case encStart => exact ⟨_, le_trans (by decide) hs.bufferInv.le_maxAdu, rfl⟩
  case encByte =>
    have hm : s.mode = .encOpen := by simpa [legalIn] using hl
    obtain ⟨-, hroom, -⟩ := hs.encOpen hm
    by_cases hf : s.len.toNat + 2 = s.config.maxAdu
    · exact ⟨_, hm, .inl ⟨hf, rfl⟩⟩
    · exact ⟨_, hm, .inr ⟨hf, by omega, rfl⟩⟩
  case encFinish =>
    have hm : s.mode = .encOpen := by simpa [legalIn] using hl
    obtain ⟨-, hroom, -⟩ := hs.encOpen hm
    by_cases h2 : s.len.toNat < 2
    · exact ⟨_, hm, .inl ⟨h2, rfl⟩⟩
    · exact ⟨_, hm, .inr ⟨by omega, by omega, s.held, hs.holds_held, rfl⟩⟩
  case decByte =>
    have hm : s.mode = .decOpen := by simpa [legalIn] using hl
    by_cases hf : s.len.toNat = s.config.maxAdu
    · exact ⟨_, hm, .inl ⟨hf, rfl⟩⟩
    · exact ⟨_, hm, .inr ⟨lt_of_le_of_ne hs.len_le hf, rfl⟩⟩
  case decFinish =>
    have hm : s.mode = .decOpen := by simpa [legalIn] using hl
    by_cases hlen : s.ovf = true ∨ s.len.toNat < 4
    · exact ⟨_, hm, .inl ⟨hlen, rfl⟩⟩
    · obtain ⟨ho, h4⟩ : s.ovf = false ∧ 4 ≤ s.len.toNat := by simpa using hlen
      have hb := bufBytes_of_holds hs.holds_held
      cases hc : crcAccepts s.held
      · exact ⟨_, hm, .inr ⟨ho, h4, _, hb, .inl ⟨hc, rfl⟩⟩⟩
      · exact ⟨_, hm, .inr ⟨ho, h4, _, hb, .inr ⟨hc, rfl⟩⟩⟩
  case decTimeout => exact ⟨_, by simpa [legalIn] using hl, rfl⟩
  case rdByte =>
    have hm : s.mode = .encDone ∨ s.mode = .decDone := by simpa [legalIn] using hl
    by_cases hr : s.rdptr < readEnd s
    · obtain ⟨b, hb⟩ := hs.bufRead_ok (hr.trans_le (hs.readEnd_le))
      exact ⟨_, hm, .inr ⟨hr, b, hb, rfl⟩⟩
    · exact ⟨_, hm, .inl ⟨hr, rfl⟩⟩
  case rdAddr =>
    have hm : s.mode = .decDone := by simpa [legalIn] using hl
    obtain ⟨h4, -⟩ := hs.decDone hm
    obtain ⟨b, hb⟩ := hs.bufRead_ok (k := 0) (by omega)
    exact ⟨_, hm, b, hb, rfl⟩
  all_goals exact ⟨_, rfl⟩

theorem exec_next_of_inv (hs : s.Inv) (i : Instr) : ∃ t, exec i s = .next t := by
  cases hl : legalIn i s.mode
  · exact ⟨_, exec_of_illegal hl⟩
  · obtain ⟨t, ht⟩ := hs.exists_ownOutcome hl
    exact ⟨t, exec_of_ownOutcome hl ht⟩

end Sys2Proof.Machine
end

section
/-! PROOFS. Runs of issued commands (20_memory.md R41, 30_encoding.md R53). -/

namespace Sys2Proof.Machine

variable {i : Instr} {s t : State} {rest : List Input}

/-- No command touches the parameter or the inputs still to come. -/
theorem exec_keeps_config_inputs (h : exec i s = .next t) : t.config = s.config ∧ t.inputs = s.inputs := by
  obtain ⟨-, rfl⟩ | ⟨-, h⟩ := exec_cases h
  · exact ⟨rfl, rfl⟩
  · cases i
    case encStart =>
      obtain ⟨-, rfl⟩ := h
      exact ⟨rfl, rfl⟩
    case encByte => obtain ⟨-, ⟨-, rfl⟩ | ⟨-, -, rfl⟩⟩ := h <;> exact ⟨rfl, rfl⟩
    case encFinish => obtain ⟨-, ⟨-, rfl⟩ | ⟨-, -, f, -, rfl⟩⟩ := h <;> exact ⟨rfl, rfl⟩
    case decByte => obtain ⟨-, ⟨-, rfl⟩ | ⟨-, rfl⟩⟩ := h <;> exact ⟨rfl, rfl⟩
    case decFinish =>
      obtain ⟨-, ⟨-, rfl⟩ | ⟨-, -, f, -, ⟨-, rfl⟩ | ⟨-, rfl⟩⟩⟩ := h <;> exact ⟨rfl, rfl⟩
    case decTimeout =>
      obtain ⟨-, rfl⟩ := h
      exact ⟨rfl, rfl⟩
    case rdByte => obtain ⟨-, ⟨-, rfl⟩ | ⟨-, b, -, rfl⟩⟩ := h <;> exact ⟨rfl, rfl⟩
    case rdAddr =>
      obtain ⟨-, b, -, rfl⟩ := h
      exact ⟨rfl, rfl⟩
    all_goals
      obtain rfl := h
      exact ⟨rfl, rfl⟩

/-- An issued command is executed by the step that takes it. -/
theorem step_of_issued (h : s.inputs = .cmd (encode i) :: rest) :
    step s = exec i { s with inputs := rest } := step_of_command h (decode_encode i)

/-- From an invariant state an issued command takes one step, to an invariant state, and gives one response. -/
theorem State.Inv.issued_step (hs : s.Inv) (hin : s.inputs = .cmd (encode i) :: rest) :
    ∃ t, step s = .next t ∧ t.Inv ∧ t.inputs = rest ∧ t.responses.length = s.responses.length + 1 := by
  have hs' : State.Inv { s with inputs := rest } := hs.with_inputs rest
  obtain ⟨t, he⟩ := exec_next_of_inv hs' i
  obtain ⟨code, data, ha⟩ := exec_answers he
  exact ⟨t, (step_of_issued hin).trans he, exec_keeps_inv hs' he, (exec_keeps_config_inputs he).2,
    by simp [ha.responses]⟩

theorem run_succ {k : Nat} (h : step s = .next t) :
    Host.Core.run core (k + 1) s = Host.Core.run core k t := by
  have hcore : core.step s = .next t := h
  simp only [Host.Core.run, hcore]

/-- From an invariant state issued commands run one a step, each giving one response. -/
theorem State.Inv.run_issue (cs : List Instr) (hs : s.Inv) (hin : s.inputs = issue cs ++ rest) :
    ∃ t, Host.Core.run core cs.length s = .next t ∧ t.Inv ∧ t.inputs = rest ∧
      t.responses.length = s.responses.length + cs.length := by
  induction cs generalizing s with
  | nil => exact ⟨s, rfl, hs, hin, rfl⟩
  | cons i cs ih =>
    obtain ⟨u, hstep, hu, huin, hur⟩ := hs.issued_step (i := i) hin
    obtain ⟨t, hrun, ht, htin, htr⟩ := ih hu huin
    exact ⟨t, (run_succ hstep).trans hrun, ht, htin, by rw [htr, hur, List.length_cons]; omega⟩

end Sys2Proof.Machine
end

section
/-! PROOFS. The obligations of 30_encoding.md on the responses and the pseudo-commands (R47, R53). -/

namespace Sys2Proof.Machine

/-- Settles O48: a reserved word answers ILLEGAL_COMMAND, and a command as `exec_answers` says. -/
theorem everyCommandGivesOneResponse : Obligations.EveryCommandGivesOneResponse := by
  refine ⟨fun code data => ⟨respCode_respWord code data, respData_respWord code data⟩,
    fun b => BitVec.toNat_setWidth_of_le (by decide), fun s t w rest hin h => ?_⟩
  obtain ⟨i, -, he⟩ | ⟨r, -, rfl⟩ := step_command_cases hin h
  · obtain ⟨code, data, ha⟩ := exec_answers he
    exact ⟨code, data, ha.responses, ha.verdict, ha.data⟩
  · exact ⟨.illegalCommand, 0, rfl, nofun, fun _ => rfl⟩

/-- Settles O59, by induction on the commands issued. -/
theorem pseudoCommandsExpandInOrder : Obligations.PseudoCommandsExpandInOrder := by
  refine ⟨fun _ => rfl, fun _ _ => rfl, fun _ => rfl, fun _ => rfl, fun s cs rest hs hin => ?_⟩
  obtain ⟨t, hrun, -, hrest, hresp⟩ := hs.run_issue cs hin
  exact ⟨t, hrun, hrest, hresp⟩

end Sys2Proof.Machine
end

section
/-! PROOFS. The CRC engine commands, which succeed in every mode (40_crc.md R59 to R61), and the opcodes that are
reserved with a nonzero ARG (30_encoding.md R50). -/

namespace Sys2Proof.Machine

/-- A z8 command's opcode with a nonzero ARG fails with ILLEGAL_COMMAND (60_exceptions.md R81). -/
theorem nonzeroArgIsReserved_of_z8 {i : Instr} (h : argFormOf i = .z8) :
    NonzeroArgIsReserved (opcodeOf i) :=
  fun _ _ _ harg hin => step_of_reserved hin (decode_nonzero_arg h harg)

theorem exec_crcInit (s : State) : exec .crcInit s = .next (succeed 0xFFFF { s with crc := 0xFFFF }) :=
  exec_of_ownOutcome rfl rfl

theorem exec_crcByte (d : Byte) (s : State) :
    exec (.crcByte d) s = .next (succeed (crcStep s.crc d) { s with crc := crcStep s.crc d }) :=
  exec_of_ownOutcome rfl rfl

theorem exec_crcRead (s : State) : exec .crcRead s = .next (succeed s.crc s) :=
  exec_of_ownOutcome rfl rfl

/-- Where CRC and LAST already have the values CRC_INIT writes, it only responds. -/
theorem exec_crcInit_of_initial {s : State} (hc : s.crc = 0xFFFF) (hl : s.last = .ok) :
    exec .crcInit s = .next (respond .ok 0xFFFF s) := by
  have hs : { s with crc := 0xFFFF, last := .ok } = s := by rw [← hc, ← hl]
  rw [exec_crcInit, succeed, hs]

end Sys2Proof.Machine
end

section
/-! PROOFS. The obligations of 40_crc.md on the commands of the CRC engine (R59 to R61). -/

namespace Sys2Proof.Machine

/-- Settles O9: after one CRC_INIT the CRC is initial and LAST is OK, so a second one only responds. -/
theorem crcInitSetsTheInitialValue : Obligations.CrcInitSetsTheInitialValue := by
  refine ⟨decode_encode .crcInit, nonzeroArgIsReserved_of_z8 (i := .crcInit) rfl, exec_crcInit,
    fun s t h => ?_⟩
  obtain rfl : succeed 0xFFFF { s with crc := 0xFFFF } = t :=
    Host.Outcome.next.inj ((exec_crcInit s).symm.trans h)
  exact exec_crcInit_of_initial rfl rfl

/-- Settles O10; the corner values are eight turns of R54 each. -/
theorem crcByteFeedsOneByte : Obligations.CrcByteFeedsOneByte :=
  ⟨decode_or_operand (i := .crcByte 0) nofun, exec_crcByte, by decide, by decide, by decide⟩

/-- Settles O11. -/
theorem crcReadReturnsTheAccumulator : Obligations.CrcReadReturnsTheAccumulator :=
  ⟨decode_encode .crcRead, nonzeroArgIsReserved_of_z8 (i := .crcRead) rfl, exec_crcRead⟩

end Sys2Proof.Machine
end

section
/-! PROOFS. The three encoder commands in the modes in which they are legal, outcome by outcome (41_encoder.md R62
to R64). -/

namespace Sys2Proof.Machine

variable {s : State} {f : List Byte} {d : Byte}

/-- The rows of R18 are the modes outside which a command fails with ILLEGAL_SEQUENCE (60_exceptions.md R82). -/
theorem legalOnlyIn_legalModes (i : Instr) : LegalOnlyIn i (legalModes i) :=
  fun _ => exec_of_not_mem_legalModes

/-- A parameter in range gives the buffer an index 0 (00_scope.md R7). -/
theorem maxAdu_pos_of_wf {c : Config} (hc : c.wf = true) : 0 < c.maxAdu := by
  have h : 143 ≤ c.maxAdu ∧ c.maxAdu ≤ 65535 := by simpa [Config.wf] using hc
  omega

/-- ENC_START opens an ADU with the address at index 0 (R62). -/
theorem exec_encStart (a : Byte) (hc : s.config.wf = true) :
    exec (.encStart a) s = .next (succeed 0
      { s with buf := s.buf.write 0 a, len := 1, rdptr := 0, ovf := false, mode := .encOpen,
               frame := .noVerdict }) :=
  exec_of_ownOutcome rfl ⟨maxAdu_pos_of_wf hc, rfl⟩

/-- With only the CRC's room left ENC_BYTE ends the frame (R63). -/
theorem encByte_of_full (hm : s.mode = .encOpen) (hfull : s.len.toNat + 2 = s.config.maxAdu) :
    exec (.encByte d) s = .next (afterFrameError .encLength s) :=
  exec_of_ownOutcome (by simp [hm, legalIn]) ⟨hm, .inl ⟨hfull, rfl⟩⟩

/-- With room for the byte and the CRC ENC_BYTE appends the byte (R63). -/
theorem encByte_of_room (hm : s.mode = .encOpen) (hroom : s.len.toNat + 2 < s.config.maxAdu) :
    exec (.encByte d) s =
      .next (succeed 0 { s with buf := s.buf.write (appendIndex s) d, len := s.len + 1 }) :=
  exec_of_ownOutcome (by simp [hm, legalIn]) ⟨hm, .inr ⟨hroom.ne, by omega, rfl⟩⟩

/-- ENC_FINISH without a byte of PDU ends the frame (R64). -/
theorem encFinish_of_short (hm : s.mode = .encOpen) (h2 : s.len.toNat < 2) :
    exec .encFinish s = .next (afterFrameError .encLength s) :=
  exec_of_ownOutcome (by simp [hm, legalIn]) ⟨hm, .inl ⟨h2, rfl⟩⟩

/-- ENC_FINISH on an address and a PDU appends their CRC and opens the readout (R64). -/
theorem encFinish_of_holds (hm : s.mode = .encOpen) (hf : s.Holds f) (h2 : 2 ≤ f.length)
    (hroom : f.length + 2 ≤ s.config.maxAdu) :
    exec .encFinish s = .next (succeed (crc16 f)
      { s with buf := (s.buf.write (appendIndex s) (lo8 (crc16 f))).write (appendIndex s + 1)
                 (hi8 (crc16 f)),
               len := s.len + 2, crc := crc16 f, rdptr := 0, mode := .encDone, frame := .ok }) := by
  have hlen : f.length = s.len.toNat := hf.1
  exact exec_of_ownOutcome (by simp [hm, legalIn])
    ⟨hm, .inr ⟨by omega, by omega, f, hf, rfl⟩⟩

/-- In an open encode frame the invariant keeps room for the CRC behind the bytes held (R64). -/
theorem State.Inv.crc_room (hs : s.Inv) (hm : s.mode = .encOpen) :
    s.held.length + 2 ≤ s.config.maxAdu := by
  obtain ⟨-, hroom, -⟩ := hs.encOpen hm
  rwa [held_length]

end Sys2Proof.Machine
end

section
/-! PROOFS. The obligations of 41_encoder.md (R62 to R64). -/

namespace Sys2Proof.Machine

/-- Settles O12. -/
theorem encStartOpensAnAdu : Obligations.EncStartOpensAnAdu :=
  ⟨decode_or_operand (i := .encStart 0) nofun, fun a _ hc =>
    ⟨_, exec_encStart a hc, rfl, Memory.read_write_same .., fun _ => Memory.read_write_other _ a⟩⟩

/-- Settles O13: the failure with ENC_LENGTH leaves IDLE, where a further ENC_BYTE is out of sequence. -/
theorem encByteAppendsOrFails : Obligations.EncByteAppendsOrFails := by
  refine ⟨decode_or_operand (i := .encByte 0) nofun, fun d => legalOnlyIn_legalModes (.encByte d),
    fun d s hm hfull => ⟨encByte_of_full hm hfull, fun d' => ?_⟩, fun d s hm hroom => ?_⟩
  · have hidle : (afterFrameError .encLength s).mode ∉ legalModes (.encByte d') :=
      show Mode.idle ∉ [Mode.encOpen] by decide
    exact exec_of_not_mem_legalModes hidle
  · exact ⟨_, encByte_of_room hm hroom, rfl, Memory.read_write_same ..,
      fun _ => Memory.read_write_other _ d⟩

/-- Settles O14: an invariant state gives the room, and the two bytes behind the frame are the CRC's. -/
theorem encFinishAppendsTheCrc : Obligations.EncFinishAppendsTheCrc := by
  refine ⟨decode_encode .encFinish, nonzeroArgIsReserved_of_z8 (i := .encFinish) rfl,
    legalOnlyIn_legalModes .encFinish, fun s => encFinish_of_short,
    fun s hs hm => ⟨hs.holds_held, hs.crc_room hm⟩, fun s f hm hf h2 hroom => ?_⟩
  have h := encFinish_of_holds hm hf h2 hroom
  obtain ⟨-, -, hlo, hhi⟩ := encFinish_appends_crc h hm rfl
  exact ⟨_, h, rfl, hlo, hhi, fun j hj hj' =>
    (Memory.read_write_other _ _ hj').trans (Memory.read_write_other _ _ hj)⟩

end Sys2Proof.Machine
end

section
/-! PROOFS. The decoder commands in the modes in which they are legal, outcome by outcome, and the readout after a
frame that failed (42_decoder.md R66 to R69). -/

namespace Sys2Proof.Machine

variable {s : State} {f : List Byte} {d : Byte}

/-- DEC_START opens an empty received frame in every mode (R66). -/
theorem exec_decStart (s : State) : exec .decStart s = .next (succeed 0
    { s with len := 0, rdptr := 0, ovf := false, mode := .decOpen, frame := .noVerdict }) :=
  exec_of_ownOutcome rfl rfl

/-- With the buffer full DEC_BYTE drops the byte and the frame stays open (R67). -/
theorem decByte_of_full (hm : s.mode = .decOpen) (hfull : s.len.toNat = s.config.maxAdu) :
    exec (.decByte d) s = .next (afterError .frameLength { s with ovf := true }) := by
  rw [← fail_eq_afterError rfl]
  exact exec_of_ownOutcome (by simp [hm, legalIn]) ⟨hm, .inl ⟨hfull, rfl⟩⟩

/-- With room in the buffer DEC_BYTE appends the byte (R67). -/
theorem decByte_of_room (hm : s.mode = .decOpen) (hroom : s.len.toNat < s.config.maxAdu) :
    exec (.decByte d) s =
      .next (succeed 0 { s with buf := s.buf.write (appendIndex s) d, len := s.len + 1 }) :=
  exec_of_ownOutcome (by simp [hm, legalIn]) ⟨hm, .inr ⟨hroom, rfl⟩⟩

/-- DEC_FINISH opens the PDU for reading when the length and the CRC are good (R68). -/
theorem decFinish_of_good_crc (hm : s.mode = .decOpen) (ho : s.ovf = false) (hf : s.Holds f)
    (h4 : 4 ≤ f.length) (hc : crc16 (crcBody f) = transmittedCrc f) :
    exec .decFinish s = .next (succeed (s.len - 3)
      { s with crc := crc16 (crcBody f), rdptr := 1, mode := .decDone, frame := .ok }) := by
  rw [decFinish_of_holds hm ho hf h4, if_pos (crcAccepts_iff.mpr hc)]

/-- DEC_TIMEOUT ends the frame whatever was received (R69). -/
theorem exec_decTimeout (hm : s.mode = .decOpen) :
    exec .decTimeout s = .next (frameFail .timeout s) :=
  exec_of_ownOutcome (by simp [hm, legalIn]) ⟨hm, rfl⟩

/-- A frame that failed leaves IDLE, so a command that IDLE does not allow is out of sequence (R68, R80). -/
theorem exec_afterFrameError_of_illegal {i : Instr} (code : Code) (s : State)
    (hi : Mode.idle ∉ legalModes i) :
    exec i (afterFrameError code s) =
      .next (afterError .illegalSequence (afterFrameError code s)) :=
  exec_of_not_mem_legalModes hi

end Sys2Proof.Machine
end

section
/-! PROOFS. The obligations of 42_decoder.md on the decoder commands (R66 to R69). -/

namespace Sys2Proof.Machine

/-- Settles O15. -/
theorem decStartOpensAReceivedFrame : Obligations.DecStartOpensAReceivedFrame :=
  ⟨decode_encode .decStart, nonzeroArgIsReserved_of_z8 (i := .decStart) rfl, exec_decStart⟩

/-- Settles O16: a full buffer drops the byte and sets OVF, on which DEC_FINISH fails; else the byte is written at
LEN, which no other index meets. -/
theorem decByteAppendsOrDrops : Obligations.DecByteAppendsOrDrops :=
  ⟨decode_or_operand (i := .decByte 0) nofun, fun d => legalOnlyIn_legalModes (.decByte d),
    fun _ _ => decByte_of_full, fun _ => decFinish_of_ovf, fun d _ hm hroom =>
      ⟨_, decByte_of_room hm hroom, rfl, Memory.read_write_same .., fun _ => Memory.read_write_other _ d⟩⟩

/-- Settles O17: the length checks, then the comparison of the CRC of the body with the last two bytes; the
readout commands are not legal in the IDLE that a failure leaves. -/
theorem decFinishChecksTheFrame : Obligations.DecFinishChecksTheFrame :=
  ⟨decode_encode .decFinish, nonzeroArgIsReserved_of_z8 (i := .decFinish) rfl,
    legalOnlyIn_legalModes .decFinish, fun _ => decFinish_of_bad_length,
    fun _ _ => decFinish_of_bad_crc, fun _ _ => decFinish_of_good_crc, fun s code =>
      ⟨exec_afterFrameError_of_illegal code s (by decide),
        exec_afterFrameError_of_illegal code s (by decide)⟩⟩

/-- Settles O18. -/
theorem decTimeoutEndsTheFrame : Obligations.DecTimeoutEndsTheFrame :=
  ⟨decode_encode .decTimeout, nonzeroArgIsReserved_of_z8 (i := .decTimeout) rfl,
    legalOnlyIn_legalModes .decTimeout, fun _ => exec_decTimeout⟩

end Sys2Proof.Machine
end

section
/-! PROOFS. The readout and control commands, outcome by outcome: where RD_BYTE returns a byte and where it answers
EMPTY, and the lengths RD_LEN shows (43_readout_control.md R71 to R77). -/

namespace Sys2Proof.Machine

variable {s : State} {f : List Byte} {b : Byte}

/-! ## The readable region -/

/-- A byte of the frame held can be read. -/
theorem State.Holds.bufRead_ok {k : Nat} (hf : s.Holds f) (hb : f[k]? = some b) : bufRead s k = .ok b := by
  obtain ⟨-, hmax, hr⟩ := hf
  obtain ⟨hk, -⟩ := List.getElem?_eq_some_iff.mp hb
  exact bufRead_eq_ok.mpr ⟨by omega, (hr k hk).trans hb⟩

/-- In ENC_DONE the whole ADU is readable (R72). -/
theorem rdptr_lt_readEnd_of_encDone (hm : s.mode = .encDone) :
    s.rdptr < readEnd s ↔ s.rdptr.toNat < s.len.toNat := by
  simp [readEnd, hm, BitVec.lt_def]

/-- In DEC_DONE the two CRC bytes are not readable (R72). -/
theorem rdptr_lt_readEnd_of_decDone (hm : s.mode = .decDone) (h2 : 2 ≤ s.len.toNat) :
    s.rdptr < readEnd s ↔ s.rdptr.toNat + 2 < s.len.toNat := by
  have hend : (s.len - 2).toNat = s.len.toNat - 2 := by bv_omega
  simp only [readEnd, hm, BitVec.lt_def, hend]
  omega

/-! ## RD_BYTE and RD_ADDR -/

/-- EMPTY is no error, so it leaves STICKY (R23, R79). -/
theorem fail_empty (s : State) : fail .empty s = respond .empty 0 { s with last := .empty } := by
  simp [fail, isError]

/-- Below the end of the readable region RD_BYTE returns the next byte and advances (R72). -/
theorem rdByte_of_readable (hm : s.mode = .encDone ∨ s.mode = .decDone) (hr : s.rdptr < readEnd s)
    (hf : s.Holds f) (hb : f[s.rdptr.toNat]? = some b) :
    exec .rdByte s = .next (succeed (zext16 b) { s with rdptr := s.rdptr + 1 }) :=
  exec_of_ownOutcome (by simpa [legalIn] using hm) ⟨hm, .inr ⟨hr, b, hf.bufRead_ok hb, rfl⟩⟩

/-- At the end of the readable region RD_BYTE answers EMPTY and writes only LAST (R72). -/
theorem rdByte_of_exhausted (hm : s.mode = .encDone ∨ s.mode = .decDone) (hr : ¬ s.rdptr < readEnd s) :
    exec .rdByte s = .next (respond .empty 0 { s with last := .empty }) :=
  exec_of_ownOutcome (by simpa [legalIn] using hm) ⟨hm, .inl ⟨hr, (fail_empty s).symm⟩⟩

/-- RD_BYTE after EMPTY answers EMPTY again, and LAST already says so (R72). -/
theorem rdByte_after_empty {t : State} (hm : s.mode = .encDone ∨ s.mode = .decDone)
    (hr : ¬ s.rdptr < readEnd s) (h : exec .rdByte s = .next t) :
    exec .rdByte t = .next (respond .empty 0 t) := by
  obtain rfl := Host.Outcome.next.inj ((rdByte_of_exhausted hm hr).symm.trans h)
  exact rdByte_of_exhausted hm hr

/-- RD_ADDR returns the first byte of the frame, whatever it is (R74). -/
theorem rdAddr_of_holds (hm : s.mode = .decDone) (hf : s.Holds f) (hb : f[0]? = some b) :
    exec .rdAddr s = .next (succeed (zext16 b) s) :=
  exec_of_ownOutcome (by simp [hm, legalIn]) ⟨hm, b, hf.bufRead_ok hb, rfl⟩

/-! ## RD_LEN -/

theorem shownLength_of_idle (hm : s.mode = .idle) : shownLength s = 0 := by simp [shownLength, hm]

theorem shownLength_of_decDone (hm : s.mode = .decDone) : shownLength s = s.len - 3 := by
  simp [shownLength, hm]

/-- While a frame is open, and in ENC_DONE, RD_LEN shows `LEN` itself (R73). -/
theorem shownLength_of_held (hm : s.mode ∈ [Mode.encOpen, .encDone, .decOpen]) :
    shownLength s = s.len := by
  obtain hm | hm | hm : s.mode = .encOpen ∨ s.mode = .encDone ∨ s.mode = .decOpen := by simpa using hm
  all_goals simp [shownLength, hm]

theorem exec_rdLen (s : State) : exec .rdLen s = .next (succeed (shownLength s) s) :=
  exec_of_ownOutcome rfl rfl

/-! ## The control commands, legal in every mode -/

theorem exec_nop (s : State) : exec .nop s = .next (respond .ok 0 s) := exec_of_ownOutcome rfl rfl

theorem exec_rdStatus (s : State) : exec .rdStatus s = .next (respond .ok (statusWord s) s) :=
  exec_of_ownOutcome rfl rfl

/-- RD_STATUS leaves every element of the view, so a second one returns the same word (R75). -/
theorem rdStatus_again {t : State} (h : exec .rdStatus s = .next t) :
    exec .rdStatus t = .next (respond .ok (statusWord s) t) := by
  obtain rfl := Host.Outcome.next.inj ((exec_rdStatus s).symm.trans h)
  exact exec_rdStatus _

theorem exec_clrStatus (s : State) : exec .clrStatus s = .next (succeed 0 { s with sticky := false }) :=
  exec_of_ownOutcome rfl rfl

theorem exec_abort (s : State) : exec .abort s = .next (succeed 0
    { s with mode := .idle, len := 0, rdptr := 0, ovf := false, frame := .noVerdict }) :=
  exec_of_ownOutcome rfl rfl

end Sys2Proof.Machine
end

section
/-! PROOFS. The obligations of 43_readout_control.md (R71 to R77). -/

namespace Sys2Proof.Machine

/-- Settles O19: in each of the two modes RDPTR is compared with the end of that mode's readable region. -/
theorem rdByteReturnsTheNextByte : Obligations.RdByteReturnsTheNextByte := by
  refine ⟨decode_encode .rdByte, nonzeroArgIsReserved_of_z8 (i := .rdByte) rfl,
    legalOnlyIn_legalModes .rdByte, fun s f b hf hb hmode => ?_, fun s hmode => ?_⟩
  · have hlen : f.length = s.len.toNat := hf.1
    obtain hm | ⟨hm, hptr⟩ := hmode
    · obtain ⟨hptr, -⟩ := List.getElem?_eq_some_iff.mp hb
      have hr : s.rdptr < readEnd s := (rdptr_lt_readEnd_of_encDone hm).mpr (hlen ▸ hptr)
      exact rdByte_of_readable (.inl hm) hr hf hb
    · have hr : s.rdptr < readEnd s := (rdptr_lt_readEnd_of_decDone hm (by omega)).mpr (hlen ▸ hptr)
      exact rdByte_of_readable (.inr hm) hr hf hb
  · obtain ⟨hm, hr⟩ : (s.mode = .encDone ∨ s.mode = .decDone) ∧ ¬ s.rdptr < readEnd s := by
      obtain ⟨hm, hptr⟩ | ⟨hm, h2, hptr⟩ := hmode
      · exact ⟨.inl hm, mt (rdptr_lt_readEnd_of_encDone hm).mp (by omega)⟩
      · exact ⟨.inr hm, mt (rdptr_lt_readEnd_of_decDone hm h2).mp (by omega)⟩
    exact ⟨rdByte_of_exhausted hm hr, fun _ => rdByte_after_empty hm hr⟩

/-- Settles O8. -/
theorem nopDoesNothing : Obligations.NopDoesNothing :=
  ⟨decode_encode .nop, nonzeroArgIsReserved_of_z8 (i := .nop) rfl, exec_nop⟩

/-- Settles O20: the three cases are those of `shownLength`. -/
theorem rdLenReturnsTheLength : Obligations.RdLenReturnsTheLength := by
  refine ⟨decode_encode .rdLen, nonzeroArgIsReserved_of_z8 (i := .rdLen) rfl, fun s n hmode => ?_⟩
  have hn : shownLength s = n := by
    obtain ⟨hm, rfl⟩ | ⟨hm, rfl⟩ | ⟨hm, rfl⟩ := hmode
    · exact shownLength_of_idle hm
    · exact shownLength_of_held hm
    · exact shownLength_of_decDone hm
  exact hn ▸ exec_rdLen s

/-- Settles O21. -/
theorem rdAddrReturnsTheAddress : Obligations.RdAddrReturnsTheAddress :=
  ⟨decode_encode .rdAddr, nonzeroArgIsReserved_of_z8 (i := .rdAddr) rfl,
    legalOnlyIn_legalModes .rdAddr, fun _ _ _ => rdAddr_of_holds⟩

/-- Settles O22: the layout is the view's own, and RD_STATUS writes no element of it. -/
theorem rdStatusReturnsTheView : Obligations.RdStatusReturnsTheView :=
  ⟨decode_encode .rdStatus, nonzeroArgIsReserved_of_z8 (i := .rdStatus) rfl, exec_rdStatus,
    fun _ => rfl, fun _ _ => rdStatus_again⟩

/-- Settles O23. -/
theorem clrStatusClearsSticky : Obligations.ClrStatusClearsSticky :=
  ⟨decode_encode .clrStatus, nonzeroArgIsReserved_of_z8 (i := .clrStatus) rfl, exec_clrStatus⟩

/-- Settles O24. -/
theorem abortAbandonsTheFrame : Obligations.AbortAbandonsTheFrame :=
  ⟨decode_encode .abort, nonzeroArgIsReserved_of_z8 (i := .abort) rfl, exec_abort⟩

end Sys2Proof.Machine
end

section
/-! PROOFS. The obligation of 60_exceptions.md (R79, R80) about what the two failing outcomes write. -/

namespace Sys2Proof.Machine

/-- A code that is no error leaves STICKY: `fail` writes LAST and responds (R79). -/
theorem fail_of_notError {c : Code} (h : isError c = false) (s : State) :
    fail c s = respond c 0 { s with last := c } := by
  simp [fail, h]

/-- Settles O49: `fail` by whether the code is an error (only then STICKY changes), and `frame_fail`
alike for every code. -/
theorem failWritesExactlyItsFields : Obligations.FailWritesExactlyItsFields :=
  ⟨fun s _ hc => fail_eq_afterError hc s, fun s _ hc => fail_of_notError hc s,
    fun s c => frameFail_eq_afterFrameError c s⟩

end Sys2Proof.Machine
end

section
/-! PROOFS. The invariant of 10_state.md R28 at reset, and what one step does to a state that meets it
(70_reset_and_hazards.md R92, R94). -/

namespace Sys2Proof.Machine

variable {s t : State} {c : Config} {x : Input} {rest : List Input}

/-! ## Reset -/

theorem wf_iff_range (c : Config) : c.wf = true ↔ 143 ≤ c.maxAdu ∧ c.maxAdu ≤ 65535 := by
  simp [Config.wf]

theorem resetWith_inv (hc : c.wf = true) : (State.resetWith c).Inv :=
  inv_of_parts ⟨hc, .nil, nofun, nofun⟩ nofun (.idle rfl ⟨rfl, rfl, rfl, List.mem_cons_self ..⟩)

/-- The reset event keeps the inputs and the responses, of which the invariant says nothing. -/
theorem State.Inv.after_applyReset (hs : s.Inv) : (applyReset s).Inv :=
  (resetWith_inv hs.config).of_same_frame nofun

/-! ## One step -/

theorem State.Inv.step_inv (hs : s.Inv) (h : step s = .next t) : t.Inv := by
  obtain ⟨-, rfl⟩ | ⟨rest, -, rfl⟩ | ⟨w, rest, i, -, -, he⟩ | ⟨w, rest, r, -, -, rfl⟩ := step_cases h
  · exact hs
  · exact (hs.with_inputs rest).after_applyReset
  · exact exec_keeps_inv (hs.with_inputs rest) he
  · exact (hs.with_inputs rest).after_fail nofun

/-- From an invariant state every input is taken, and a command gives one response (R92, R94). -/
theorem State.Inv.step_takes_input (hs : s.Inv) (hin : s.inputs = x :: rest) :
    ∃ t, step s = .next t ∧ t.inputs = rest ∧
      t.responses.length = s.responses.length + if x = .reset then 0 else 1 := by
  cases x with
  | reset => exact ⟨_, step_of_reset hin, rfl, rfl⟩
  | cmd w =>
    obtain ⟨i, hd⟩ | ⟨r, hd⟩ := decode_total w
    · obtain ⟨t, he⟩ := exec_next_of_inv (hs.with_inputs rest) i
      obtain ⟨code, data, ha⟩ := exec_answers he
      exact ⟨t, (step_of_command hin hd).trans he, (exec_keeps_config_inputs he).2, by simp [ha.responses]⟩
    · exact ⟨_, step_of_reserved hin hd, rfl, by simp [afterError]⟩

theorem State.Inv.exists_step (hs : s.Inv) : ∃ t, step s = .next t := by
  cases hin : s.inputs with
  | nil => exact ⟨s, step_of_no_input hin⟩
  | cons x rest =>
    obtain ⟨t, h, -⟩ := hs.step_takes_input hin
    exact ⟨t, h⟩

/-- From an invariant state as many steps as there are inputs take them all. -/
theorem State.Inv.run_inputs (ins : List Input) (hs : s.Inv) (hin : s.inputs = ins) :
    ∃ t, Host.Core.run core ins.length s = .next t ∧ t.Inv ∧ t.inputs = [] ∧
      t.responses.length = s.responses.length + (ins.filter fun x => decide (x ≠ .reset)).length := by
  induction ins generalizing s with
  | nil => exact ⟨s, rfl, hs, hin, rfl⟩
  | cons x ins ih =>
    obtain ⟨u, hstep, huin, hur⟩ := hs.step_takes_input hin
    obtain ⟨t, hrun, ht, htin, htr⟩ := ih (hs.step_inv hstep) huin
    refine ⟨t, (run_succ hstep).trans hrun, ht, htin, ?_⟩
    rw [htr, hur]
    cases x
    case reset => rfl
    case cmd => simp [Nat.add_assoc, Nat.add_comm 1]

end Sys2Proof.Machine
end

section
/-! PROOFS. Two states that differ only in bytes of BUF at LEN and above have the same outcomes (10_state.md R29,
20_memory.md R32). -/

namespace Sys2Proof.Machine

variable {i : Instr} {s s' t : State} {m m' : Memory} {n : Nat} {f : List Byte}

/-- Two buffers that agree below `n` agree below `n + 1` once the same byte is written at `n`. -/
theorem Memory.read_write_agree (b : Byte) (h : ∀ k < n, m'.read k = m.read k) :
    ∀ k < n + 1, (m'.write n b).read k = (m.write n b).read k := by
  intro k hk
  rw [Memory.read_write, Memory.read_write]
  split
  · rfl
  · exact h k (by omega)

/-- Bytes above `LEN` are not in the frame held. -/
theorem State.Holds.with_buf (hf : s.Holds f) (h : ∀ k < s.len.toNat, m.read k = s.buf.read k) :
    State.Holds { s with buf := m } f := by
  obtain ⟨hl, hmax, hr⟩ := hf
  exact ⟨hl, hmax, fun k hk => (h k (hl ▸ hk)).trans (hr k hk)⟩

theorem bufRead_with_buf {k : Nat} (h : m.read k = s.buf.read k) :
    bufRead { s with buf := m } k = bufRead s k := by
  simp [bufRead, h]

/-- A command whose buffers agree below `LEN` has outcomes whose buffers agree below the new `LEN`: what it reads
of BUF lies below `LEN`, and what it appends is written to both. -/
theorem OwnOutcome.with_buf (hs : s.Inv) (hm : ∀ k < s.len.toNat, m.read k = s.buf.read k)
    (h : OwnOutcome i s s') : ∃ t', OwnOutcome i { s with buf := m } t' ∧ SameBelowLen s' t' := by
  have hone : (s.len + 1).toNat ≤ s.len.toNat + 1 := by bv_omega
  have htwo : (s.len + 2).toNat ≤ s.len.toNat + 1 + 1 := by bv_omega
  cases i
  case encStart a =>
    obtain ⟨h0, rfl⟩ := h
    exact ⟨_, ⟨h0, rfl⟩, rfl, Memory.read_write_agree a nofun⟩
  case encByte d =>
    obtain ⟨hmode, ⟨hl, rfl⟩ | ⟨hl, hi, rfl⟩⟩ := h
    · exact ⟨_, ⟨hmode, .inl ⟨hl, rfl⟩⟩, rfl, nofun⟩
    · exact ⟨_, ⟨hmode, .inr ⟨hl, hi, rfl⟩⟩, rfl, fun k hk =>
        Memory.read_write_agree d hm k (hk.trans_le hone)⟩
  case encFinish =>
    obtain ⟨hmode, ⟨hl, rfl⟩ | ⟨hl, hi, f, hf, rfl⟩⟩ := h
    · exact ⟨_, ⟨hmode, .inl ⟨hl, rfl⟩⟩, rfl, nofun⟩
    · exact ⟨_, ⟨hmode, .inr ⟨hl, hi, f, hf.with_buf hm, rfl⟩⟩, rfl, fun k hk =>
        Memory.read_write_agree _ (Memory.read_write_agree _ hm) k (hk.trans_le htwo)⟩
  case decStart | abort =>
    obtain rfl := h
    exact ⟨_, rfl, rfl, nofun⟩
  case decByte d =>
    obtain ⟨hmode, ⟨hl, rfl⟩ | ⟨hl, rfl⟩⟩ := h
    · exact ⟨_, ⟨hmode, .inl ⟨hl, rfl⟩⟩, rfl, hm⟩
    · exact ⟨_, ⟨hmode, .inr ⟨hl, rfl⟩⟩, rfl, fun k hk =>
        Memory.read_write_agree d hm k (hk.trans_le hone)⟩
  case decFinish =>
    obtain ⟨hmode, ⟨hl, rfl⟩ | ⟨ho, hl, f, hb, hf⟩⟩ := h
    · exact ⟨_, ⟨hmode, .inl ⟨hl, rfl⟩⟩, rfl, nofun⟩
    · have hb' : bufBytes { s with buf := m } 0 s.len.toNat = .ok f :=
        bufBytes_of_holds ((holds_of_bufBytes hb hs.len_le).with_buf hm)
      obtain ⟨hc, rfl⟩ | ⟨hc, rfl⟩ := hf
      · exact ⟨_, ⟨hmode, .inr ⟨ho, hl, f, hb', .inl ⟨hc, rfl⟩⟩⟩, rfl, nofun⟩
      · exact ⟨_, ⟨hmode, .inr ⟨ho, hl, f, hb', .inr ⟨hc, rfl⟩⟩⟩, rfl, hm⟩
  case decTimeout =>
    obtain ⟨hmode, rfl⟩ := h
    exact ⟨_, ⟨hmode, rfl⟩, rfl, nofun⟩
  case rdByte =>
    obtain ⟨hmode, ⟨hr, rfl⟩ | ⟨hr, b, hb, rfl⟩⟩ := h
    · exact ⟨_, ⟨hmode, .inl ⟨hr, rfl⟩⟩, rfl, hm⟩
    · have hptr : s.rdptr.toNat < s.len.toNat := (BitVec.lt_def.mp hr).trans_le hs.readEnd_le
      exact ⟨_, ⟨hmode, .inr ⟨hr, b, (bufRead_with_buf (hm _ hptr)).trans hb, rfl⟩⟩, rfl, hm⟩
  case rdAddr =>
    obtain ⟨hmode, b, hb, rfl⟩ := h
    obtain ⟨h4, -⟩ := hs.decDone hmode
    exact ⟨_, ⟨hmode, b, (bufRead_with_buf (hm 0 (by omega))).trans hb, rfl⟩, rfl, hm⟩
  all_goals
    obtain rfl := h
    exact ⟨_, rfl, rfl, hm⟩

theorem SameBelowLen.exec_same (hs : s.Inv) (h : SameBelowLen s t) (he : exec i s = .next s') :
    ∃ t', exec i t = .next t' ∧ SameBelowLen s' t' := by
  obtain ⟨ht, hm⟩ := h
  rw [ht]
  obtain ⟨hl, rfl⟩ | ⟨hl, ho⟩ := exec_cases he
  · exact ⟨_, exec_of_illegal hl, rfl, hm⟩
  · obtain ⟨t', ho', hsame⟩ := ho.with_buf hs hm
    exact ⟨t', exec_of_ownOutcome hl ho', hsame⟩

theorem SameBelowLen.inputs_eq (h : SameBelowLen s t) : t.inputs = s.inputs := by rw [h.1]

theorem SameBelowLen.responses_eq (h : SameBelowLen s t) : t.responses = s.responses := by rw [h.1]

theorem SameBelowLen.with_inputs (h : SameBelowLen s t) (rest : List Input) :
    SameBelowLen { s with inputs := rest } { t with inputs := rest } :=
  ⟨congrArg (fun u : State => { u with inputs := rest }) h.1, h.2⟩

/-- Two states that differ only outside the frame do so after a step. -/
theorem SameBelowLen.step_same (hs : s.Inv) (h : SameBelowLen s t) (he : step s = .next s') :
    ∃ t', step t = .next t' ∧ SameBelowLen s' t' := by
  have hin := h.inputs_eq
  obtain ⟨h0, rfl⟩ | ⟨rest, hr, rfl⟩ | ⟨w, rest, i, hw, hd, hex⟩ | ⟨w, rest, r, hw, hd, rfl⟩ := step_cases he
  · exact ⟨t, step_of_no_input (hin.trans h0), h⟩
  · have ht := (h.with_inputs rest).1
    exact ⟨_, step_of_reset (hin.trans hr), by rw [ht]; rfl, nofun⟩
  · obtain ⟨t', hex', hsame⟩ := (h.with_inputs rest).exec_same (hs.with_inputs rest) hex
    exact ⟨t', (step_of_command (hin.trans hw) hd).trans hex', hsame⟩
  · obtain ⟨ht, hm⟩ := h.with_inputs rest
    refine ⟨_, step_of_reserved (hin.trans hw) hd, ?_, hm⟩
    rw [ht, execReserved, fail_eq_afterError rfl]
    rfl

end Sys2Proof.Machine
end

section
/-! PROOFS. The obligations of 10_state.md and 70_reset_and_hazards.md on the invariant, on runs from reset, and on
what cannot be observed (R28, R29, R92, R94). -/

namespace Sys2Proof.Machine

/-- Settles O33: an input is the reset event, a command or a reserved word, and each keeps the invariant. -/
theorem everyStepKeepsTheInvariant : Obligations.EveryStepKeepsTheInvariant := fun _ _ hs => hs.step_inv

/-- Settles O34: the invariant gives every command the room and the bytes it needs. -/
theorem theFramerNeverStops : Obligations.TheFramerNeverStops := fun _ hs => hs.exists_step

/-- Settles O43: the bytes a command reads lie below LEN. -/
theorem bytesOutsideTheFrameAreNeverObservable : Obligations.BytesOutsideTheFrameAreNeverObservable := by
  intro s t hs _ hsame
  obtain ⟨s', hstep⟩ := hs.exists_step
  obtain ⟨t', hstep', hsame'⟩ := hsame.step_same hs hstep
  exact ⟨s', t', hstep, hstep', hsame', hsame'.responses_eq.symm⟩

/-- Settles O31. -/
theorem resetEventRestoresEveryElement : Obligations.ResetEventRestoresEveryElement := by
  refine ⟨fun s rest hin =>
    ⟨_, step_of_reset hin, rfl, rfl, rfl, rfl, rfl, rfl, rfl, rfl, rfl, rfl, rfl⟩, fun s t h => ?_⟩
  obtain rfl := Host.Outcome.next.inj ((exec_abort s).symm.trans h)
  exact ⟨rfl, rfl⟩

/-- Settles O32. -/
theorem resetMeetsTheInvariant : Obligations.ResetMeetsTheInvariant :=
  ⟨wf_iff_range, fun _ => resetWith_inv, rfl, resetWith_inv (c := Config.default) rfl⟩

/-- Settles O35, by induction on the inputs from the reset state, which meets the invariant. -/
theorem everyRunFromResetIsSafe : Obligations.EveryRunFromResetIsSafe := by
  intro c ins hc
  obtain ⟨t, hrun, ht, hin, hresp⟩ := ((resetWith_inv hc).with_inputs ins).run_inputs ins rfl
  exact ⟨t, hrun, ht, hin, hresp.trans (Nat.zero_add _)⟩

end Sys2Proof.Machine
end

section
/-! PROOFS. What the commands do to LEN and RDPTR (10_state.md R19, R20) and to BUF (20_memory.md R31). -/

namespace Sys2Proof.Machine

variable {i : Instr} {s t : State}

/-! ## LEN and RDPTR -/

/-- What a command can do to LEN and RDPTR (R19, R20). -/
inductive PointerChange (i : Instr) (s t : State) : Prop where
  | kept (hl : t.len = s.len) (hr : t.rdptr = s.rdptr)
  /-- ENC_BYTE and DEC_BYTE append a byte -/
  | appendedByte (d : Byte) (hi : i = .encByte d ∨ i = .decByte d) (hl : t.len.toNat = s.len.toNat + 1)
      (hr : t.rdptr = s.rdptr)
  /-- ENC_FINISH appends the CRC and opens the readout at the address -/
  | appendedCrc (hi : i = .encFinish) (hl : t.len.toNat = s.len.toNat + 2) (hr : t.rdptr = 0)
  /-- DEC_FINISH opens the readout behind the address -/
  | accepted (hi : i = .decFinish) (hm : t.mode = .decDone) (hl : t.len = s.len) (hr : t.rdptr = 1)
  /-- RD_BYTE returns a byte -/
  | advanced (hi : i = .rdByte) (hl : t.len = s.len) (hr : t.rdptr.toNat = s.rdptr.toNat + 1)
  /-- ENC_START holds the address -/
  | started (a : Byte) (hi : i = .encStart a) (hl : t.len = 1) (hr : t.rdptr = 0)
  /-- DEC_START and ABORT hold nothing -/
  | emptied (hi : i = .decStart ∨ i = .abort) (hl : t.len = 0) (hr : t.rdptr = 0)
  /-- a frame failure holds nothing -/
  | failed (hm : t.mode = .idle) (hl : t.len = 0) (hr : t.rdptr = 0) (he : isError t.frame = true)
      (hf : t.frame = t.last)

theorem PointerChange.of_frameFail {u : State} {c : Code} (hc : isError c = true) :
    PointerChange i s (frameFail c u) := .failed rfl rfl rfl hc rfl

/-- RDPTR does not wrap when RD_BYTE advances. -/
theorem toNat_rdptr_add_one (hr : s.rdptr < readEnd s) : (s.rdptr + 1).toNat = s.rdptr.toNat + 1 := by
  bv_omega

theorem exec_pointerChange (hs : s.Inv) (h : exec i s = .next t) : PointerChange i s t := by
  obtain ⟨-, rfl⟩ | ⟨-, ho⟩ := exec_cases h
  · exact .kept rfl rfl
  · cases i
    case encStart a =>
      obtain ⟨-, rfl⟩ := ho
      exact .started a rfl rfl rfl
    case encByte d =>
      obtain ⟨-, ⟨-, rfl⟩ | ⟨-, hl, rfl⟩⟩ := ho
      · exact .of_frameFail rfl
      · exact .appendedByte d (.inl rfl) (toNat_len_add (k := 1) hs.config hl) rfl
    case encFinish =>
      obtain ⟨-, ⟨-, rfl⟩ | ⟨-, hl, f, -, rfl⟩⟩ := ho
      · exact .of_frameFail rfl
      · exact .appendedCrc rfl (toNat_len_add (k := 2) hs.config hl) rfl
    case decStart =>
      obtain rfl := ho
      exact .emptied (.inl rfl) rfl rfl
    case decByte d =>
      obtain ⟨-, ⟨-, rfl⟩ | ⟨hl, rfl⟩⟩ := ho
      · exact .kept rfl rfl
      · exact .appendedByte d (.inr rfl) (toNat_len_add (k := 1) hs.config hl) rfl
    case decFinish =>
      obtain ⟨-, ⟨-, rfl⟩ | ⟨-, -, f, -, ⟨-, rfl⟩ | ⟨-, rfl⟩⟩⟩ := ho
      · exact .of_frameFail rfl
      · exact .of_frameFail rfl
      · exact .accepted rfl rfl rfl rfl
    case decTimeout =>
      obtain ⟨-, rfl⟩ := ho
      exact .of_frameFail rfl
    case rdByte =>
      obtain ⟨-, ⟨-, rfl⟩ | ⟨hr, b, -, rfl⟩⟩ := ho
      · exact .kept rfl rfl
      · exact .advanced rfl rfl (toNat_rdptr_add_one hr)
    case rdAddr =>
      obtain ⟨-, b, -, rfl⟩ := ho
      exact .kept rfl rfl
    case abort =>
      obtain rfl := ho
      exact .emptied (.inr rfl) rfl rfl
    all_goals
      obtain rfl := ho
      exact .kept rfl rfl

/-- RDPTR is 0 outside the two DONE modes (R28). -/
theorem State.Inv.rdptr_eq_zero (hs : s.Inv) (he : s.mode ≠ .encDone) (hd : s.mode ≠ .decDone) :
    s.rdptr = 0 := by
  cases hm : s.mode
  case encDone => exact (he hm).elim
  case decDone => exact (hd hm).elim
  case idle =>
    obtain ⟨-, hr, -⟩ := hs.idle hm
    exact hr
  case encOpen =>
    obtain ⟨-, -, hr, -⟩ := hs.encOpen hm
    exact hr
  case decOpen =>
    obtain ⟨-, hr, -⟩ := hs.decOpen hm
    exact hr

/-- A legal ENC_FINISH leaves RDPTR 0 whether it completes or not: its failure ends the frame. -/
theorem encFinish_rdptr (h : exec .encFinish s = .next t) (hm : s.mode = .encOpen) : t.rdptr = 0 := by
  obtain ⟨hm', -⟩ | ⟨-, -, rfl⟩ | ⟨-, -, -, f, -, rfl⟩ := encFinish_cases h
  · exact (hm' hm).elim
  · rfl
  · rfl

/-! ## BUF -/

/-- A command legal in its mode writes only the indices of R31. -/
theorem OwnOutcome.read_other {j : Nat} (h : OwnOutcome i s t) (hj : j ∉ storedIndices i s) :
    t.buf.read j = s.buf.read j := by
  cases i
  case encStart a =>
    obtain ⟨-, rfl⟩ := h
    exact Memory.read_write_other _ a (by simpa [storedIndices] using hj)
  case encByte d =>
    obtain ⟨hm, ⟨-, rfl⟩ | ⟨hl, -, rfl⟩⟩ := h
    · rfl
    · exact Memory.read_write_other _ d (by simpa [storedIndices, hm, hl, appendIndex] using hj)
  case encFinish =>
    obtain ⟨hm, ⟨-, rfl⟩ | ⟨hl, -, f, -, rfl⟩⟩ := h
    · rfl
    · obtain ⟨hj₁, hj₂⟩ : j ≠ s.len.toNat ∧ j ≠ s.len.toNat + 1 := by
        simpa [storedIndices, hm, hl, appendIndex] using hj
      exact (Memory.read_write_other _ _ hj₂).trans (Memory.read_write_other _ _ hj₁)
  case decByte d =>
    obtain ⟨hm, ⟨-, rfl⟩ | ⟨hl, rfl⟩⟩ := h
    · rfl
    · exact Memory.read_write_other _ d (by simpa [storedIndices, hm, hl.ne, appendIndex] using hj)
  case decFinish => obtain ⟨-, ⟨-, rfl⟩ | ⟨-, -, f, -, ⟨-, rfl⟩ | ⟨-, rfl⟩⟩⟩ := h <;> rfl
  case decTimeout =>
    obtain ⟨-, rfl⟩ := h
    rfl
  case rdByte => obtain ⟨-, ⟨-, rfl⟩ | ⟨-, b, -, rfl⟩⟩ := h <;> rfl
  case rdAddr =>
    obtain ⟨-, b, -, rfl⟩ := h
    rfl
  all_goals
    obtain rfl := h
    rfl

theorem exec_read_other {j : Nat} (h : exec i s = .next t) (hj : j ∉ storedIndices i s) :
    t.buf.read j = s.buf.read j := by
  obtain ⟨-, rfl⟩ | ⟨-, ho⟩ := exec_cases h
  · rfl
  · exact ho.read_other hj

end Sys2Proof.Machine
end

section
/-! PROOFS. Which commands read or write CRC (10_state.md R22). -/

namespace Sys2Proof.Machine

variable {i : Instr} {s t : State}

/-- What a stretch of the buffer reads as depends on the parameter and the buffer alone. -/
theorem bufBytes_congr {k n : Nat} (hc : t.config = s.config) (hb : t.buf = s.buf) :
    bufBytes t k n = bufBytes s k n := by
  induction n generalizing k with
  | zero => rfl
  | succ n ih => simp only [bufBytes, bufRead, hc, hb, ih]

/-- The commands that read or write CRC, the two FINISHes included. -/
def usesCrc (i : Instr) : Bool :=
  match i with
  | .crcInit | .crcByte _ | .crcRead | .encFinish | .decFinish => true
  | _ => false

theorem usesCrc_eq_false (hb : ∀ d, i ≠ .crcByte d) (hr : i ≠ .crcRead)
    (hi : i ∉ [Instr.crcInit, .encFinish, .decFinish]) : usesCrc i = false := by
  cases i
  case crcByte d => exact (hb d rfl).elim
  case crcRead => exact (hr rfl).elim
  case crcInit | encFinish | decFinish => simp at hi
  all_goals rfl

/-- The other commands carry any value of CRC through, and any inputs still to come. -/
theorem OwnOutcome.with_crc_inputs (c : Word) (ins : List Input) (hi : usesCrc i = false)
    (h : OwnOutcome i s t) :
    OwnOutcome i { s with crc := c, inputs := ins } { t with crc := c, inputs := ins } := by
  cases i
  case crcInit | crcByte | crcRead | encFinish | decFinish => cases hi
  case encStart =>
    obtain ⟨h0, rfl⟩ := h
    exact ⟨h0, rfl⟩
  case encByte =>
    obtain ⟨hm, ⟨hl, rfl⟩ | ⟨hl, hi, rfl⟩⟩ := h
    · exact ⟨hm, .inl ⟨hl, rfl⟩⟩
    · exact ⟨hm, .inr ⟨hl, hi, rfl⟩⟩
  case decByte =>
    obtain ⟨hm, ⟨hl, rfl⟩ | ⟨hl, rfl⟩⟩ := h
    · exact ⟨hm, .inl ⟨hl, rfl⟩⟩
    · exact ⟨hm, .inr ⟨hl, rfl⟩⟩
  case decTimeout =>
    obtain ⟨hm, rfl⟩ := h
    exact ⟨hm, rfl⟩
  case rdByte =>
    obtain ⟨hm, ⟨hr, rfl⟩ | ⟨hr, b, hb, rfl⟩⟩ := h
    · exact ⟨hm, .inl ⟨hr, rfl⟩⟩
    · exact ⟨hm, .inr ⟨hr, b, hb, rfl⟩⟩
  case rdAddr =>
    obtain ⟨hm, b, hb, rfl⟩ := h
    exact ⟨hm, b, hb, rfl⟩
  all_goals
    obtain rfl := h
    rfl

theorem exec_with_crc_inputs (c : Word) (ins : List Input) (hi : usesCrc i = false)
    (h : exec i s = .next t) :
    exec i { s with crc := c, inputs := ins } = .next { t with crc := c, inputs := ins } := by
  obtain ⟨hl, rfl⟩ | ⟨hl, ho⟩ := exec_cases h
  · exact exec_of_illegal hl
  · exact exec_of_ownOutcome hl (ho.with_crc_inputs c ins hi)

theorem exec_with_crc (c : Word) (hi : usesCrc i = false) (h : exec i s = .next t) :
    exec i { s with crc := c } = .next { t with crc := c } := by
  have ht : { t with crc := c, inputs := s.inputs } = { t with crc := c } := by
    rw [← (exec_keeps_config_inputs h).2]
  exact ht ▸ exec_with_crc_inputs c s.inputs hi h

/-- Carrying the value through that CRC already has shows that it stays. -/
theorem exec_keeps_crc (hi : usesCrc i = false) (h : exec i s = .next t) : t.crc = s.crc := by
  have ht : t = { t with crc := s.crc } := Host.Outcome.next.inj (h.symm.trans (exec_with_crc s.crc hi h))
  rw [ht]

/-- A FINISH that ends before its CRC leaves CRC (R22). -/
theorem finish_keeps_crc (h : exec i s = .next t) (hi : i = .encFinish ∨ i = .decFinish)
    (hend : t.mode = s.mode ∨ t.frame = .encLength ∨ t.frame = .frameLength) : t.crc = s.crc := by
  obtain rfl | rfl := hi
  · obtain ⟨-, rfl⟩ | ⟨-, -, rfl⟩ | ⟨hm, -, -, f, -, rfl⟩ := encFinish_cases h
    · rfl
    · rfl
    · simp [hm] at hend
  · obtain ⟨-, rfl⟩ | ⟨-, -, rfl⟩ | ⟨hm, -, -, f, -, ⟨-, rfl⟩ | ⟨-, rfl⟩⟩ := decFinish_cases h
    · rfl
    · rfl
    · simp [hm] at hend
    · simp [hm] at hend

/-- A FINISH does not read CRC: with another value it answers the same but for CRC, and the same in all where it
writes CRC. -/
theorem finish_with_crc (c : Word) (h : exec i s = .next t) (hi : i = .encFinish ∨ i = .decFinish) :
    ∃ u, exec i { s with crc := c } = .next u ∧ t = { u with crc := t.crc } ∧
      (s.mode ∈ legalModes i → t.frame ∈ [Code.ok, .frameCrc] → u = t) := by
  obtain ⟨hl, rfl⟩ | ⟨hl, ho⟩ := exec_cases h
  · exact ⟨_, exec_of_illegal hl, rfl, fun hm => by simp [mem_legalModes, hl] at hm⟩
  · obtain rfl | rfl := hi
    · obtain ⟨hm, ⟨h2, rfl⟩ | ⟨h2, hroom, f, hf, rfl⟩⟩ := ho
      · exact ⟨_, exec_of_ownOutcome hl ⟨hm, .inl ⟨h2, rfl⟩⟩, rfl, fun _ hf => by simp at hf⟩
      · exact ⟨_, exec_of_ownOutcome hl ⟨hm, .inr ⟨h2, hroom, f, hf, rfl⟩⟩, rfl, fun _ _ => rfl⟩
    · obtain ⟨hm, ⟨h4, rfl⟩ | ⟨hovf, h4, f, hb, hc⟩⟩ := ho
      · exact ⟨_, exec_of_ownOutcome hl ⟨hm, .inl ⟨h4, rfl⟩⟩, rfl, fun _ hf => by simp at hf⟩
      · have hb' : bufBytes { s with crc := c } 0 s.len.toNat = .ok f := by
          rw [← hb]
          exact bufBytes_congr rfl rfl
        obtain ⟨hc, rfl⟩ | ⟨hc, rfl⟩ := hc
        · exact ⟨_, exec_of_ownOutcome hl ⟨hm, .inr ⟨hovf, h4, f, hb', .inl ⟨hc, rfl⟩⟩⟩, rfl, fun _ _ => rfl⟩
        · exact ⟨_, exec_of_ownOutcome hl ⟨hm, .inr ⟨hovf, h4, f, hb', .inr ⟨hc, rfl⟩⟩⟩, rfl, fun _ _ => rfl⟩

end Sys2Proof.Machine
end

section
/-! PROOFS. The obligations of 10_state.md and 20_memory.md on LEN, RDPTR, CRC and the bytes stored (R19, R20, R22,
R31). -/

namespace Sys2Proof.Machine

/-- Settles O39, by the eight things a command can do to LEN and RDPTR. -/
theorem lenGrowsOnlyByAppending : Obligations.LenGrowsOnlyByAppending := by
  refine fun i s t hs h => ⟨(exec_keeps_inv hs h).len_le, ?_⟩
  cases exec_pointerChange hs h with
  | kept hl hr => exact .inl hl
  | accepted hi hm hl hr => exact .inl hl
  | advanced hi hl hr => exact .inl hl
  | appendedByte d hi hl hr => exact .inr (.inl ⟨hl, d, hi⟩)
  | appendedCrc hi hl hr => exact .inr (.inr (.inl ⟨hl, hi⟩))
  | started a hi hl hr => exact .inr (.inr (.inr (.inl ⟨hl, a, hi⟩)))
  | emptied hi hl hr => exact .inr (.inr (.inr (.inr (.inl ⟨hl, hi⟩))))
  | failed hm hl hr he hf => exact .inr (.inr (.inr (.inr (.inr ⟨hl, hm, he, hf⟩))))

/-- Settles O40: the moves are those of `PointerChange`, the bounds those of the invariant of the next state. -/
theorem rdptrMovesOnlyByReading : Obligations.RdptrMovesOnlyByReading := by
  intro i s t hs h
  have ht : t.Inv := exec_keeps_inv hs h
  refine ⟨?_, fun hm => ?_, fun hm => ?_, ht.rdptr_eq_zero, ?_⟩
  · cases exec_pointerChange hs h with
    | kept hl hr => exact .inl hr
    | appendedByte d hi hl hr => exact .inl hr
    | advanced hi hl hr => exact .inr (.inl ⟨hr, hi⟩)
    | accepted hi hm hl hr => exact .inr (.inr (.inr ⟨hr, hi, hm⟩))
    | appendedCrc hi hl hr => exact .inr (.inr (.inl hr))
    | started a hi hl hr => exact .inr (.inr (.inl hr))
    | emptied hi hl hr => exact .inr (.inr (.inl hr))
    | failed hm hl hr he hf => exact .inr (.inr (.inl hr))
  · obtain ⟨-, -, hr, -⟩ := ht.encDone hm
    exact hr
  · obtain ⟨-, -, h1, h2, -⟩ := ht.decDone hm
    exact ⟨h1, h2⟩
  · rintro rfl - hm
    exact encFinish_rdptr h hm

/-- Settles O42: CRC_INIT writes it whatever it was, the FINISHes compute it from BUF, and the commands left carry
any value through. -/
theorem crcHasItsWritersAndReaders : Obligations.CrcHasItsWritersAndReaders := by
  refine ⟨fun i s t h hb hi => ?_, fun i s t => finish_keeps_crc, fun i s t c hb hr h => ?_⟩
  · by_cases hr : i = .crcRead
    · subst hr
      obtain rfl := Host.Outcome.next.inj ((exec_crcRead s).symm.trans h)
      rfl
    · exact exec_keeps_crc (usesCrc_eq_false hb hr hi) h
  · by_cases hi : i ∈ [Instr.crcInit, .encFinish, .decFinish]
    · obtain rfl | hi : i = .crcInit ∨ i = .encFinish ∨ i = .decFinish := by simpa using hi
      · obtain rfl := Host.Outcome.next.inj ((exec_crcInit s).symm.trans h)
        exact ⟨_, exec_crcInit _, rfl, fun _ _ _ => rfl⟩
      · obtain ⟨u, hu, ht, hsame⟩ := finish_with_crc c h hi
        exact ⟨u, hu, ht, fun _ => hsame⟩
    · have hfin : ¬ (i = .encFinish ∨ i = .decFinish) := fun hfin => hi (by simp [hfin])
      exact ⟨_, exec_with_crc c (usesCrc_eq_false hb hr hi) h, rfl, fun hf => (hfin hf).elim⟩

/-- Settles O47. -/
theorem commandsStoreOnlyWhereTheTableSays : Obligations.CommandsStoreOnlyWhereTheTableSays :=
  fun _ _ _ h => ⟨fun _ => exec_read_other h, exec_keeps_config_inputs h⟩

end Sys2Proof.Machine
end

section
/-! PROOFS. Repeated reads, and the commands after a frame that failed or was discarded (20_memory.md R38,
70_reset_and_hazards.md R96, R98). -/

namespace Sys2Proof.Machine

variable {i : Instr} {s t : State}

/-! ## Reads -/

/-- The reads without side effect answer the same the second time: what they return is not what they write. -/
theorem read_again (hi : i ∈ [Instr.crcRead, .rdLen, .rdAddr, .rdStatus]) (h : exec i s = .next t) :
    ∃ r, t.responses = s.responses ++ [r] ∧ exec i t = .next { t with responses := t.responses ++ [r] } := by
  obtain rfl | rfl | rfl | rfl : i = .crcRead ∨ i = .rdLen ∨ i = .rdAddr ∨ i = .rdStatus := by simpa using hi
  · obtain rfl := Host.Outcome.next.inj ((exec_crcRead s).symm.trans h)
    exact ⟨_, rfl, exec_crcRead _⟩
  · obtain rfl := Host.Outcome.next.inj ((exec_rdLen s).symm.trans h)
    exact ⟨_, rfl, exec_rdLen _⟩
  · obtain ⟨hm, rfl⟩ | ⟨hm, b, hb, rfl⟩ := rdAddr_cases h
    · rw [fail_eq_afterError rfl]
      exact ⟨_, rfl, exec_of_not_mem_legalModes (by simpa [legalModes, afterError] using hm)⟩
    · exact ⟨_, rfl, exec_of_ownOutcome (by simp [hm, legalIn]) ⟨hm, b, hb, rfl⟩⟩
  · exact ⟨_, congrArg State.responses (Host.Outcome.next.inj ((exec_rdStatus s).symm.trans h)).symm,
      rdStatus_again h⟩

/-- A RD_BYTE that succeeds has advanced (R72). -/
theorem rdByte_advances (h : exec .rdByte s = .next t) (hok : t.last = .ok) : t.rdptr = s.rdptr + 1 := by
  obtain ⟨-, -, rfl⟩ | ⟨-, -, rfl⟩ | ⟨-, -, b, -, rfl⟩ := rdByte_cases h
  · cases hok
  · cases hok
  · rfl

/-! ## Discarding a result -/

/-- The STARTs and ABORT answer OK with data 0 and leave no result to read (R62, R66, R77). -/
theorem State.Inv.discard (hs : s.Inv) (hi : discardsFrame i = true) :
    ∃ t, exec i s = .next t ∧ t.responses = s.responses ++ [respWord .ok 0] ∧
      t.mode ∉ [Mode.encDone, .decDone] := by
  obtain ⟨a, rfl⟩ | rfl | rfl := discardsFrame_iff.mp hi
  · exact ⟨_, exec_encStart a hs.config, rfl, show Mode.encOpen ∉ _ by decide⟩
  · exact ⟨_, exec_decStart s, rfl, show Mode.decOpen ∉ _ by decide⟩
  · exact ⟨_, exec_abort s, rfl, show Mode.idle ∉ _ by decide⟩

end Sys2Proof.Machine
end

section
/-! PROOFS. The obligations of 20_memory.md and 70_reset_and_hazards.md on reads and hazards (R38, R96, R98). -/

namespace Sys2Proof.Machine

/-- Settles O50. -/
theorem repeatedReadsReturnTheSame : Obligations.RepeatedReadsReturnTheSame := by
  refine ⟨fun i s t => read_again, fun i s t hi h => ?_, fun s t => rdByte_advances⟩
  obtain rfl | rfl : i = .nop ∨ i = .rdStatus := by simpa using hi
  · obtain rfl := Host.Outcome.next.inj ((exec_nop s).symm.trans h)
    rfl
  · obtain rfl := Host.Outcome.next.inj ((exec_rdStatus s).symm.trans h)
    rfl

/-- Settles O51. -/
theorem commandsAfterAFailedFrameChangeNothing : Obligations.CommandsAfterAFailedFrameChangeNothing :=
  fun _ code s hi => ⟨exec_afterFrameError_of_illegal code s hi, rfl, rfl⟩

/-- Settles O52: the modes the STARTs and ABORT leave are not those of the readout commands. -/
theorem startsAndAbortDiscardTheResult : Obligations.StartsAndAbortDiscardTheResult := by
  intro i s hs _ hi
  obtain ⟨t, h, hresp, hm⟩ := hs.discard (discardsFrame_iff.mpr hi)
  refine ⟨t, h, hresp, exec_of_not_mem_legalModes hm, exec_of_not_mem_legalModes fun hd => hm ?_⟩
  exact List.mem_cons_of_mem _ hd

end Sys2Proof.Machine
end

section
/-! PROOFS. Where the model stops: in states that no run reaches, an access outside the buffer or to a byte never
written (20_memory.md R32, R40). -/

namespace Sys2Proof.Machine

variable {s : State} {f : List Byte} {d : Byte} {j : Nat} {fl : Fault}

theorem bufRead_of_ge (h : s.config.maxAdu ≤ j) : bufRead s j = .error (.bufNoSuchIndex j) :=
  if_neg (Nat.not_lt.mpr h)

theorem bufWrite_of_ge (h : s.config.maxAdu ≤ j) (b : Byte) : bufWrite s j b = .error (.bufNoSuchIndex j) :=
  if_neg (Nat.not_lt.mpr h)

theorem bufRead_of_unwritten (h : j < s.config.maxAdu) (hr : s.buf.read j = none) :
    bufRead s j = .error (.bufUnwritten j) := by
  simp [bufRead, h, hr]

/-- A stretch of the buffer with a byte that cannot be read cannot be read. -/
theorem bufBytes_of_bufRead_error {n : Nat} (hj : j < n) (h : bufRead s j = .error fl) :
    ∃ fl', bufBytes s 0 n = .error fl' := by
  cases hb : bufBytes s 0 n with
  | error fl' => exact ⟨fl', rfl⟩
  | ok f =>
    obtain ⟨-, hk⟩ := bufBytes_eq_ok.mp hb
    obtain ⟨b, -, hr⟩ := hk j hj
    rw [Nat.zero_add, h] at hr
    cases hr

theorem encStart_of_no_buffer (h : s.config.maxAdu = 0) (a : Byte) :
    exec (.encStart a) s = .fault (.bufNoSuchIndex 0) := by
  simp [exec, execEncStart, bufWrite_of_ge h.le]

theorem encByte_of_ge (hm : s.mode = .encOpen) (h : s.config.maxAdu ≤ s.len.toNat) :
    exec (.encByte d) s = .fault (.bufNoSuchIndex (appendIndex s)) := by
  have hfull : ¬ s.len.toNat + 2 = s.config.maxAdu := by omega
  simp [exec, execEncByte, whenLegal, legalIn, hm, hfull, appendIndex, bufWrite_of_ge h]

theorem decByte_of_gt (hm : s.mode = .decOpen) (h : s.config.maxAdu < s.len.toNat) :
    exec (.decByte d) s = .fault (.bufNoSuchIndex (appendIndex s)) := by
  simp [exec, execDecByte, whenLegal, legalIn, hm, h.ne', appendIndex, bufWrite_of_ge h.le]

theorem rdByte_of_bufRead_error (hm : s.mode = .encDone ∨ s.mode = .decDone) (hr : s.rdptr < readEnd s)
    (h : bufRead s s.rdptr.toNat = .error fl) : exec .rdByte s = .fault fl := by
  have hl : legalIn .rdByte s.mode = true := by simpa [legalIn] using hm
  simp [exec, execRdByte, whenLegal, hl, hr, h]

theorem rdAddr_of_bufRead_error (hm : s.mode = .decDone) (h : bufRead s 0 = .error fl) :
    exec .rdAddr s = .fault fl := by
  simp [exec, execRdAddr, whenLegal, legalIn, hm, h]

theorem encFinish_of_bufBytes_error (hm : s.mode = .encOpen) (h2 : 2 ≤ s.len.toNat)
    (h : bufBytes s 0 s.len.toNat = .error fl) : exec .encFinish s = .fault fl := by
  simp [exec, execEncFinish, whenLegal, legalIn, hm, Nat.not_lt.mpr h2, h]

theorem decFinish_of_bufBytes_error (hm : s.mode = .decOpen) (ho : s.ovf = false) (h4 : 4 ≤ s.len.toNat)
    (h : bufBytes s 0 s.len.toNat = .error fl) : exec .decFinish s = .fault fl := by
  simp [exec, execDecFinish, whenLegal, legalIn, hm, ho, minAdu, Nat.not_lt.mpr h4, h]

/-- Without room for both bytes of the CRC one of the two writes faults. -/
theorem encFinish_of_no_room (hm : s.mode = .encOpen) (h2 : 2 ≤ s.len.toNat) (hf : s.Holds f)
    (h : s.config.maxAdu < s.len.toNat + 2) : ∃ fl, exec .encFinish s = .fault fl := by
  by_cases hfirst : s.len.toNat < s.config.maxAdu
  · have hsecond : s.config.maxAdu ≤ s.len.toNat + 1 := by omega
    refine ⟨.bufNoSuchIndex (s.len.toNat + 1), ?_⟩
    simp [exec, execEncFinish, whenLegal, legalIn, hm, Nat.not_lt.mpr h2, bufBytes_of_holds hf, appendIndex,
      bufWrite, hfirst, Nat.not_lt.mpr hsecond]
  · refine ⟨.bufNoSuchIndex s.len.toNat, ?_⟩
    simp [exec, execEncFinish, whenLegal, legalIn, hm, Nat.not_lt.mpr h2, bufBytes_of_holds hf, appendIndex,
      bufWrite_of_ge (Nat.not_lt.mp hfirst)]

/-- Settles O54, access by access. -/
theorem accessesOutsideTheBufferFault : Obligations.AccessesOutsideTheBufferFault := by
  refine ⟨fun s j b h => ⟨bufRead_of_ge h, bufWrite_of_ge h b⟩, fun s j => bufRead_of_unwritten,
    fun s a h => encStart_of_no_buffer h a, fun s d => encByte_of_ge, fun s d => decByte_of_gt,
    fun s fl hm hptr => rdByte_of_bufRead_error (.inl hm) ((rdptr_lt_readEnd_of_encDone hm).mpr hptr),
    fun s fl hm hptr => rdByte_of_bufRead_error (.inr hm) ((rdptr_lt_readEnd_of_decDone hm (by omega)).mpr hptr),
    fun s fl => rdAddr_of_bufRead_error, fun s j fl hm h2 hj h => ?_, fun s f => encFinish_of_no_room,
    fun s j fl hm ho h4 hj h => ?_⟩
  · obtain ⟨fl', hb⟩ := bufBytes_of_bufRead_error hj h
    exact ⟨fl', encFinish_of_bufBytes_error hm h2 hb⟩
  · obtain ⟨fl', hb⟩ := bufBytes_of_bufRead_error hj h
    exact ⟨fl', decFinish_of_bufBytes_error hm ho h4 hb⟩

end Sys2Proof.Machine
end

section
/-! PROOFS. The CRC function: the turns of its loop are linear and injective, so eight of them move the high byte
down and leave a table of the low byte; a string's own CRC is the only tail that brings it to zero (40_crc.md R54
to R58). -/

namespace Sys2Proof.Machine

variable {c d : Word} {f : List Byte} {x y : Byte}

/-! ## One turn -/

/-- A turn as a sum of two linear parts: the shift, and the polynomial chosen by bit 0. -/
theorem crcShift_eq_xor (c : Word) : crcShift c = (c >>> 1) ^^^ if c.getLsbD 0 then crcPoly else 0 := by
  unfold crcShift
  split
  · rfl
  · exact BitVec.xor_zero.symm

theorem crcShift_xor (c d : Word) : crcShift (c ^^^ d) = crcShift c ^^^ crcShift d := by
  simp only [crcShift_eq_xor, BitVec.ushiftRight_xor_distrib, BitVec.getLsbD_xor]
  have hpoly : (if (c.getLsbD 0 ^^ d.getLsbD 0) then crcPoly else 0) =
      (if c.getLsbD 0 then crcPoly else 0) ^^^ (if d.getLsbD 0 then crcPoly else 0) := by
    cases c.getLsbD 0 <;> cases d.getLsbD 0 <;> decide
  rw [hpoly]
  ac_rfl

/-- The polynomial sets bit 15, which the shift leaves clear, so no word but 0 is turned to 0. -/
theorem eq_zero_of_crcShift_eq_zero (h : crcShift c = 0) : c = 0 := by
  unfold crcShift at h
  split at h
  case isTrue hodd =>
    have hpoly : c >>> 1 = crcPoly := BitVec.xor_eq_zero_iff.mp h
    have hval : (c >>> 1).toNat = 0xA001 := by rw [hpoly]; rfl
    rw [BitVec.toNat_ushiftRight, Nat.shiftRight_eq_div_pow] at hval
    have := c.isLt
    omega
  case isFalse heven =>
    have hval : (c >>> 1).toNat = 0 := by rw [h]; rfl
    rw [BitVec.toNat_ushiftRight, Nat.shiftRight_eq_div_pow] at hval
    rw [BitVec.getLsbD, Nat.testBit_zero] at heven
    have : c.toNat % 2 ≠ 1 := by simpa using heven
    exact BitVec.eq_of_toNat_eq (by simp; omega)

/-! ## The loop -/

theorem crcShifts_eq_iterate (n : Nat) (c : Word) : crcShifts n c = crcShift^[n] c := by
  induction n generalizing c with
  | zero => rfl
  | succ n ih => exact ih (crcShift c)

theorem crcShifts_xor (n : Nat) (c d : Word) : crcShifts n (c ^^^ d) = crcShifts n c ^^^ crcShifts n d := by
  induction n generalizing c d with
  | zero => rfl
  | succ n ih => rw [crcShifts, crcShift_xor, ih]; rfl

theorem eq_zero_of_crcShifts_eq_zero {n : Nat} (h : crcShifts n c = 0) : c = 0 := by
  induction n generalizing c with
  | zero => exact h
  | succ n ih => exact eq_zero_of_crcShift_eq_zero (ih h)

theorem crcShifts_injective (n : Nat) : Function.Injective (crcShifts n) := by
  intro c d h
  apply BitVec.xor_eq_zero_iff.mp
  apply eq_zero_of_crcShifts_eq_zero (n := n)
  rw [crcShifts_xor, h]
  exact BitVec.xor_self

/-- Turns that find bit 0 clear only shift. -/
theorem crcShifts_of_low_zero {n : Nat} (h : ∀ k < n, c.getLsbD k = false) : crcShifts n c = c >>> n := by
  induction n generalizing c with
  | zero => simp [crcShifts]
  | succ n ih =>
    have hshift : crcShift c = c >>> 1 := by
      rw [crcShift, h 0 n.succ_pos]
      rfl
    have hlow : ∀ k < n, (c >>> 1).getLsbD k = false := fun k hk => by
      rw [BitVec.getLsbD_ushiftRight]
      exact h (1 + k) (by omega)
    rw [crcShifts, hshift, ih hlow, ← BitVec.shiftRight_add, Nat.add_comm]

/-! ## Bytes of a word -/

theorem zext16_eq_wireWord (b : Byte) : zext16 b = wireWord b 0 := BitVec.setWidth_eq_append (by decide)

theorem wireWord_xor (a b x y : Byte) : wireWord a b ^^^ wireWord x y = wireWord (a ^^^ x) (b ^^^ y) :=
  BitVec.xor_append

theorem wireWord_inj {a b x y : Byte} : wireWord a b = wireWord x y ↔ a = x ∧ b = y := by
  rw [wireWord, wireWord, ← cmdWord, ← cmdWord, cmdWord_inj, and_comm]

theorem zext16_injective : Function.Injective zext16 := by
  intro a b h
  rw [zext16_eq_wireWord, zext16_eq_wireWord] at h
  exact (wireWord_inj.mp h).1

theorem shiftRight_eight (c : Word) : c >>> 8 = zext16 (hi8 c) := by
  have := c.isLt
  apply BitVec.eq_of_toNat_eq
  simp only [zext16, hi8, BitVec.toNat_ushiftRight, BitVec.toNat_setWidth, BitVec.extractLsb'_toNat,
    Nat.shiftRight_eq_div_pow]
  omega

/-- Eight turns move the high byte down when the low byte is zero. -/
theorem crcShifts_wireWord_zero (b : Byte) : crcShifts 8 (wireWord 0 b) = zext16 b := by
  rw [crcShifts_of_low_zero, shiftRight_eight, hi8_wireWord]
  intro k hk
  rw [wireWord, BitVec.getLsbD_append]
  simp [hk]

/-! ## One byte of a string -/

/-- The state after a byte: the high byte moves down, and the low byte takes the new byte through the table. -/
theorem crcStep_eq_xor (c : Word) (b : Byte) :
    crcStep c b = (c >>> 8) ^^^ crcStep 0 (lo8 c ^^^ b) := by
  have hsplit : c ^^^ zext16 b = wireWord 0 (hi8 c) ^^^ (0 ^^^ zext16 (lo8 c ^^^ b)) := by
    conv_lhs => rw [← wireWord_lo8_hi8 c]
    rw [zext16_eq_wireWord, zext16_eq_wireWord, wireWord_xor, show (0 : Word) = wireWord 0 0 from rfl,
      wireWord_xor, wireWord_xor]
    simp
  rw [crcStep, hsplit, crcShifts_xor, crcShifts_wireWord_zero, shiftRight_eight]
  rfl

theorem crcStep_injective_state (b : Byte) : Function.Injective (crcStep · b) := fun _ _ h =>
  (BitVec.xor_left_inj _).mp (crcShifts_injective 8 h)

theorem crcStep_injective_byte (c : Word) : Function.Injective (crcStep c) := fun _ _ h =>
  zext16_injective ((BitVec.xor_right_inj _).mp (crcShifts_injective 8 h))

/-- The table entry that a state and a byte choose. -/
theorem tableIndex_eq (c : Word) (b : Byte) :
    ((c ^^^ zext16 b) &&& 0x00FF).toNat = (lo8 c ^^^ b).toNat := by
  have hlow : (c ^^^ zext16 b) &&& 0x00FF = zext16 (lo8 c ^^^ b) := by
    conv_lhs => rw [← wireWord_lo8_hi8 c, zext16_eq_wireWord, wireWord_xor]
    rw [zext16_eq_wireWord]
    have hmask : (0x00FF : Word) = wireWord (BitVec.allOnes 8) 0 := rfl
    rw [hmask, wireWord, wireWord, BitVec.and_append, BitVec.and_allOnes]
    simp [wireWord]
  rw [hlow, zext16, BitVec.toNat_setWidth_of_le (by decide)]

theorem crcTable_eq_map : crcTable = (List.range 256).map fun n => crcStep 0 (BitVec.ofNat 8 n) := by
  decide +kernel

theorem crcTable_getD_byte (b : Byte) : crcTable.getD b.toNat 0 = crcStep 0 b := by
  have hb : b.toNat < 256 := b.isLt
  rw [crcTable_eq_map, List.getD_eq_getElem?_getD, List.getElem?_map, List.getElem?_range hb]
  simp

/-! ## Strings -/

theorem crc16_append (s : List Byte) (b : Byte) : crc16 (s ++ [b]) = crcStep (crc16 s) b :=
  List.foldl_concat ..

/-- Different states stay different whatever bytes follow. -/
theorem foldl_crcStep_injective (bs : List Byte) : Function.Injective (bs.foldl crcStep) := by
  induction bs with
  | nil => exact fun _ _ h => h
  | cons b bs ih => exact fun _ _ h => crcStep_injective_state b (ih h)

/-- Strings that differ in one byte have different CRCs. -/
theorem crc16_set_ne {k : Nat} {b : Byte} (hk : k < f.length) (hb : f[k]? ≠ some b) :
    crc16 (f.set k b) ≠ crc16 f := by
  intro h
  have hf : f = f.take k ++ f[k] :: f.drop (k + 1) := by simp
  rw [List.set_eq_take_append_cons_drop, if_pos hk] at h
  conv_rhs at h => rw [hf]
  simp only [crc16, List.foldl_append, List.foldl_cons] at h
  have hbyte : b = f[k] := crcStep_injective_byte _ (foldl_crcStep_injective _ h)
  exact hb (by rw [hbyte, List.getElem?_eq_getElem hk])

/-- The last byte brings the state to zero exactly when it is the low byte of a state without a high byte. -/
theorem crcStep_eq_zero_iff : crcStep d y = 0 ↔ d = zext16 y := by
  constructor
  · intro h
    exact BitVec.xor_eq_zero_iff.mp (eq_zero_of_crcShifts_eq_zero h)
  · rintro rfl
    rw [crcStep, BitVec.xor_self]
    decide

/-- Two bytes bring a state to zero exactly when they are the state, low byte first (R57). -/
theorem crcStep_crcStep_eq_zero_iff : crcStep (crcStep c x) y = 0 ↔ c = wireWord x y := by
  have hshift : crcStep (wireWord x y) x = zext16 y := by
    rw [crcStep, zext16_eq_wireWord x, wireWord_xor]
    simpa using crcShifts_wireWord_zero y
  rw [crcStep_eq_zero_iff, ← hshift]
  exact (crcStep_injective_state x).eq_iff

theorem crc16_append_two_eq_zero_iff (s : List Byte) :
    crc16 (s ++ [x, y]) = 0 ↔ crc16 s = wireWord x y := by
  rw [← crcStep_crcStep_eq_zero_iff]
  simp [crc16]

/-- The decoder accepts exactly the frames whose CRC over all bytes is zero (R57, R68). -/
theorem crc16_eq_zero_iff (h2 : 2 ≤ f.length) : crc16 f = 0 ↔ crc16 (crcBody f) = transmittedCrc f := by
  obtain ⟨x, y, hxy⟩ := List.length_eq_two.mp (show (f.drop (f.length - 2)).length = 2 by simp; omega)
  obtain ⟨s, rfl⟩ : ∃ s, f = s ++ [x, y] :=
    ⟨f.take (f.length - 2), by rw [← hxy, List.take_append_drop]⟩
  rw [crc16_append_two_eq_zero_iff]
  simp [crcBody, transmittedCrc]

/-- A frame accepted and the frame with one byte changed would both have the CRC zero over all bytes (R58). -/
theorem crcAccepts_set_eq_false {k : Nat} {b : Byte} (h2 : 2 ≤ f.length) (hk : k < f.length)
    (hb : f[k]? ≠ some b) (hc : crcAccepts f = true) : crcAccepts (f.set k b) = false := by
  by_contra h
  have hzero : crc16 f = 0 := (crc16_eq_zero_iff h2).mpr (crcAccepts_iff.mp hc)
  have hzero' : crc16 (f.set k b) = 0 :=
    (crc16_eq_zero_iff (by simpa using h2)).mpr (crcAccepts_iff.mp (by simpa using h))
  exact crc16_set_ne hk hb (hzero'.trans hzero.symm)

end Sys2Proof.Machine
end

section
/-! PROOFS. The obligations of 40_crc.md on the CRC function (R54 to R58). -/

namespace Sys2Proof.Machine

/-- Settles O25. -/
theorem crcStepIsTheShiftLoop : Obligations.CrcStepIsTheShiftLoop :=
  ⟨fun c b => crcShifts_eq_iterate 8 (c ^^^ b.setWidth 16), by decide, fun c b => by simp [crcStep, zext16]⟩

/-- Settles O26. -/
theorem crcOfAStringIsFedByteByByte : Obligations.CrcOfAStringIsFedByteByByte :=
  ⟨rfl, crc16_append, by decide +kernel⟩

/-- Settles O27: the high byte only moves down, so the table needs the low byte alone. -/
theorem tableDrivenCrcAgrees : Obligations.TableDrivenCrcAgrees := by
  refine ⟨crcTable_eq_map, fun c b => ?_⟩
  rw [← zext16, tableIndex_eq, crcTable_getD_byte]
  exact crcStep_eq_xor c b

/-- Settles O28. -/
theorem ownCrcIsTheOnlyZeroResidue : Obligations.OwnCrcIsTheOnlyZeroResidue := by
  refine ⟨fun s x y => ?_, fun f => crc16_eq_zero_iff⟩
  rw [crc16_append_two_eq_zero_iff, ← wireWord_lo8_hi8 (crc16 s), wireWord_inj]
  simp [eq_comm]

/-- Settles O29. -/
theorem everySingleByteCorruptionIsDetected : Obligations.EverySingleByteCorruptionIsDetected :=
  fun _ _ _ h4 => crcAccepts_set_eq_false (le_trans (by decide) h4)

end Sys2Proof.Machine
end

section
/-! PROOFS. Commands executed one after the other, apart from the port, and as runs of the framer that takes them
from it (20_memory.md R41, 70_reset_and_hazards.md R94). -/

namespace Sys2Proof.Machine

variable {i : Instr} {s t u : State} {cs ds : List Instr} {r : Resp} {rs qs : List Resp} {rest : List Input}

/-! ## No command reads the inputs still to come -/

theorem exec_with_inputs (ins : List Input) (h : exec i s = .next t) :
    exec i { s with inputs := ins } = .next { t with inputs := ins } := by
  cases hi : usesCrc i
  case false =>
    have ht : { t with crc := s.crc, inputs := ins } = { t with inputs := ins } := by
      rw [← exec_keeps_crc hi h]
    exact ht ▸ exec_with_crc_inputs s.crc ins hi h
  case true =>
    obtain ⟨hl, rfl⟩ | ⟨hl, ho⟩ := exec_cases h
    · exact exec_of_illegal hl
    · refine exec_of_ownOutcome hl ?_
      cases i
      case encFinish =>
        obtain ⟨hm, ⟨h2, rfl⟩ | ⟨h2, hroom, f, hf, rfl⟩⟩ := ho
        · exact ⟨hm, .inl ⟨h2, rfl⟩⟩
        · exact ⟨hm, .inr ⟨h2, hroom, f, hf, rfl⟩⟩
      case decFinish =>
        obtain ⟨hm, ⟨h4, rfl⟩ | ⟨hovf, h4, f, hb, hc⟩⟩ := ho
        · exact ⟨hm, .inl ⟨h4, rfl⟩⟩
        · have hb' : bufBytes { s with inputs := ins } 0 s.len.toNat = .ok f := by
            rw [← hb]
            exact bufBytes_congr rfl rfl
          obtain ⟨hc, rfl⟩ | ⟨hc, rfl⟩ := hc
          · exact ⟨hm, .inr ⟨hovf, h4, f, hb', .inl ⟨hc, rfl⟩⟩⟩
          · exact ⟨hm, .inr ⟨hovf, h4, f, hb', .inr ⟨hc, rfl⟩⟩⟩
      case crcInit | crcByte | crcRead =>
        obtain rfl := ho
        rfl
      all_goals cases hi

/-! ## Executing a list of commands -/

/-- The commands, executed in order from the first state, lead to the second and give these responses. -/
inductive Runs : List Instr → List Resp → State → State → Prop where
  | nil (s : State) : Runs [] [] s s
  | cons {i : Instr} {r : Resp} {cs : List Instr} {rs : List Resp} {s u t : State}
      (h : exec i s = .next u) (hr : u.responses = s.responses ++ [r]) (ht : Runs cs rs u t) :
      Runs (i :: cs) (r :: rs) s t

theorem Runs.single (h : exec i s = .next t) (hr : t.responses = s.responses ++ [r]) : Runs [i] [r] s t :=
  .cons h hr (.nil t)

theorem Runs.append (h : Runs cs rs s u) (h' : Runs ds qs u t) : Runs (cs ++ ds) (rs ++ qs) s t := by
  induction h with
  | nil => exact h'
  | cons he hr _ ih => exact .cons he hr (ih h')

theorem Runs.length_eq (h : Runs cs rs s t) : rs.length = cs.length := by
  induction h with
  | nil => rfl
  | cons _ _ _ ih => simp [ih]

theorem Runs.responses_eq (h : Runs cs rs s t) : t.responses = s.responses ++ rs := by
  induction h with
  | nil => simp
  | cons _ hr _ ih => simp [ih, hr]

theorem Runs.inputs_eq (h : Runs cs rs s t) : t.inputs = s.inputs := by
  induction h with
  | nil => rfl
  | cons he _ _ ih => exact ih.trans (exec_keeps_config_inputs he).2

/-- Issued commands run as they are executed apart from the port. -/
theorem Runs.run_issue (h : Runs cs rs s t) (ins : List Input) :
    Host.Core.run core cs.length { s with inputs := issue cs ++ ins } = .next { t with inputs := ins } := by
  induction h with
  | nil => rfl
  | @cons i r cs rs s u t he hr _ ih =>
    have he' := exec_with_inputs (issue cs ++ ins) he
    have hstep := step_of_issued (s := { s with inputs := issue (i :: cs) ++ ins }) rfl
    exact (run_succ (hstep.trans he')).trans ih

/-- A framer whose inputs begin with commands runs them, one a step. -/
theorem Runs.run_of_inputs {n : Nat} (h : Runs cs rs { s with inputs := rest } t)
    (hin : s.inputs = issue cs ++ rest) (hn : cs.length = n) :
    Host.Core.run core n s = .next t ∧ t.inputs = rest ∧ t.responses = s.responses ++ rs := by
  have hs : { s with inputs := issue cs ++ rest } = s := by rw [← hin]
  have ht : { t with inputs := rest } = t := by rw [show rest = t.inputs from h.inputs_eq.symm]
  have hrun := h.run_issue rest
  rw [ht, hn] at hrun
  exact ⟨hs ▸ hrun, h.inputs_eq, h.responses_eq⟩

theorem issue_append (cs ds : List Instr) : issue (cs ++ ds) = issue cs ++ issue ds := List.map_append

end Sys2Proof.Machine
end

section
/-! PROOFS. The commands of a frame, executed in order: appending bytes to an open frame, reading a frame out, and
feeding the CRC engine (30_encoding.md R53). -/

namespace Sys2Proof.Machine

variable {s : State} {f : List Byte} {m : Mode} {cmd : Byte → Instr} {room : Nat}

/-! ## The CRC engine -/

/-- The CRC_BYTE commands feed their bytes in order and touch nothing else but LAST. -/
theorem runs_crcBytes (bs : List Byte) (s : State) : ∃ rs t, Runs (bs.map .crcByte) rs s t ∧
    t = { s with crc := bs.foldl crcStep s.crc, last := t.last, responses := t.responses } := by
  induction bs generalizing s with
  | nil => exact ⟨[], s, .nil s, rfl⟩
  | cons b bs ih =>
    obtain ⟨rs, t, hrun, ht⟩ := ih (succeed (crcStep s.crc b) { s with crc := crcStep s.crc b })
    exact ⟨_ :: rs, t, .cons (exec_crcByte b s) rfl hrun, ht⟩

/-- CRC_BLOCK leaves and returns the CRC of its bytes (R53, R55). -/
theorem runs_crcBlock (bs : List Byte) (s : State) :
    ∃ rs t, Runs (crcBlock bs) (rs ++ [respWord .ok (crc16 bs)]) s t ∧
      t = { s with crc := crc16 bs, last := .ok, responses := t.responses } := by
  obtain ⟨rs, t, hrun, ht⟩ := runs_crcBytes bs (succeed 0xFFFF { s with crc := 0xFFFF })
  have hcrc : t.crc = crc16 bs := by rw [ht]; rfl
  have hread : Runs [.crcRead] [respWord .ok (crc16 bs)] t (succeed (crc16 bs) t) :=
    .single (hcrc ▸ exec_crcRead t) rfl
  refine ⟨_ :: rs, _, .cons (exec_crcInit s) rfl (hrun.append hread), ?_⟩
  rw [ht]
  rfl

/-! ## Appending to an open frame -/

/-- A command appends its byte to the frame open in mode `m` as long as `room` more bytes have room behind it. -/
def Appends (cmd : Byte → Instr) (m : Mode) (room : Nat) : Prop :=
  ∀ (s : State) (d : Byte), s.mode = m → s.len.toNat + room < s.config.maxAdu →
    exec (cmd d) s = .next (succeed 0 { s with buf := s.buf.write (appendIndex s) d, len := s.len + 1 })

theorem encByte_appends : Appends .encByte .encOpen 2 := fun _ _ => encByte_of_room

theorem decByte_appends : Appends .decByte .decOpen 0 := fun _ _ => decByte_of_room

/-- Writing at LEN and raising LEN appends to the frame held. -/
theorem State.Holds.append_byte (hf : s.Holds f) (hc : s.config.wf = true) (hl : f.length < s.config.maxAdu)
    (d : Byte) :
    State.Holds { s with buf := s.buf.write (appendIndex s) d, len := s.len + 1 } (f ++ [d]) := by
  obtain ⟨hlen, -, hr⟩ := hf
  have hlen' : (s.len + 1).toNat = s.len.toNat + 1 := toNat_len_add (k := 1) hc (hlen ▸ hl)
  refine ⟨by rw [hlen', List.length_append, hlen]; rfl, by simpa using hl, ?_⟩
  rw [appendIndex, ← hlen]
  exact Memory.read_write_append d hr

/-- As long as there is room, the bytes are appended in order, each with the response OK, and only BUF, LEN and
LAST change. -/
theorem runs_appends (hcmd : Appends cmd m room) (p : List Byte) (hm : s.mode = m) (hc : s.config.wf = true)
    (hf : s.Holds f) (hroom : f.length + p.length + room ≤ s.config.maxAdu) :
    ∃ t, Runs (p.map cmd) (okResponses p.length) s t ∧ t.Holds (f ++ p) ∧
      t = { s with buf := t.buf, len := t.len, last := t.last, responses := t.responses } := by
  induction p generalizing s f with
  | nil => exact ⟨s, .nil s, by simpa using hf, rfl⟩
  | cons d p ih =>
    have hlen : f.length = s.len.toNat := hf.1
    rw [List.length_cons] at hroom
    obtain ⟨t, hrun, hft, ht⟩ := ih
      (s := succeed 0 { s with buf := s.buf.write (appendIndex s) d, len := s.len + 1 }) hm hc
      (hf.append_byte hc (by omega) d) (by simp; omega)
    exact ⟨t, .cons (hcmd s d hm (by omega)) rfl hrun, by simpa using hft, ht⟩

/-! ## Reading out -/

/-- READ_OUT returns the bytes from RDPTR on, and only RDPTR and LAST change. -/
theorem runs_readOut (n : Nat) (hm : s.mode = .encDone ∨ s.mode = .decDone) (hf : s.Holds f)
    (hend : s.rdptr.toNat + n ≤ (readEnd s).toNat) (hle : (readEnd s).toNat ≤ f.length) :
    ∃ t, Runs (readOut n) (byteResponses ((f.drop s.rdptr.toNat).take n)) s t ∧
      t.rdptr.toNat = s.rdptr.toNat + n ∧
      t = { s with rdptr := t.rdptr, last := t.last, responses := t.responses } := by
  induction n generalizing s with
  | zero => exact ⟨s, .nil s, rfl, rfl⟩
  | succ n ih =>
    have hr : s.rdptr < readEnd s := BitVec.lt_def.mpr (by omega)
    have hptr : (s.rdptr + 1).toNat = s.rdptr.toNat + 1 := by bv_omega
    have hk : s.rdptr.toNat < f.length := by omega
    obtain ⟨t, hrun, htr, ht⟩ := ih (s := succeed (zext16 f[s.rdptr.toNat]) { s with rdptr := s.rdptr + 1 })
      hm hf (by rw [succeed_rdptr, hptr]; exact hend.trans' (by omega)) hle
    rw [succeed_rdptr, hptr] at hrun htr
    rw [List.drop_eq_getElem_cons hk, List.take_succ_cons]
    exact ⟨t, .cons (rdByte_of_readable hm hr hf (List.getElem?_eq_getElem hk)) rfl hrun, by omega, ht⟩

end Sys2Proof.Machine
end

section
/-! PROOFS. ENC_FRAME and DEC_FRAME, executed from any state, compute the source's encode and decode (41_encoder.md
R65, 42_decoder.md R70). -/

namespace Sys2Proof.Machine

variable {s : State} {f p : List Byte} {a : Byte} {code : Code}

/-! ## ENC_FRAME -/

theorem aduEncode_length (a : Byte) (p : List Byte) : (aduEncode a p).length = p.length + 3 := by
  simp [aduEncode, wireBytes]

theorem encFrame_length (a : Byte) (p : List Byte) : (encFrame a p).length = p.length + 2 := by
  simp [encFrame]

/-- ENC_START and the ENC_BYTE commands build the address and the PDU, as long as the CRC has room behind them. -/
theorem runs_encOpen (a : Byte) (p : List Byte) (hc : s.config.wf = true) (hroom : p.length + 3 ≤ s.config.maxAdu) :
    ∃ t, Runs (Instr.encStart a :: p.map Instr.encByte) (okResponses (p.length + 1)) s t ∧ t.mode = .encOpen ∧
      t.config = s.config ∧ t.Holds (a :: p) := by
  have hstart := exec_encStart a hc
  have hheld : State.Holds { s with buf := s.buf.write 0 a, len := 1 } [a] := by
    refine ⟨rfl, maxAdu_pos_of_wf hc, fun k hk => ?_⟩
    obtain rfl : k = 0 := by simpa using hk
    exact Memory.read_write_same ..
  obtain ⟨t, hrun, hf, ht⟩ := runs_appends encByte_appends p
    (s := succeed 0 { s with buf := s.buf.write 0 a, len := 1, rdptr := 0, ovf := false, mode := .encOpen,
                             frame := .noVerdict }) rfl hc hheld (show 1 + p.length + 2 ≤ s.config.maxAdu by omega)
  exact ⟨t, .cons hstart rfl hrun, by rw [ht]; rfl, by rw [ht]; rfl, hf⟩

/-- ENC_FINISH leaves the frame with its CRC behind it, to be read from the address on. -/
theorem runs_encFinish (hm : s.mode = .encOpen) (hc : s.config.wf = true) (hf : s.Holds f) (h2 : 2 ≤ f.length)
    (hroom : f.length + 2 ≤ s.config.maxAdu) :
    ∃ t, Runs [.encFinish] [respWord .ok (crc16 f)] s t ∧ t.mode = .encDone ∧ t.rdptr = 0 ∧
      t.Holds (f ++ wireBytes (crc16 f)) := by
  refine ⟨_, .single (encFinish_of_holds hm hf h2 hroom) rfl, rfl, rfl, ?_⟩
  have hlen : (s.len + 1).toNat = s.len.toNat + 1 :=
    toNat_len_add (k := 1) hc (by rw [← hf.1]; omega)
  have hlo := hf.append_byte hc (by omega) (lo8 (crc16 f))
  have hhi := hlo.append_byte hc (by simp; omega) (hi8 (crc16 f))
  have hidx : appendIndex { s with buf := s.buf.write (appendIndex s) (lo8 (crc16 f)), len := s.len + 1 } =
      appendIndex s + 1 := hlen
  rw [hidx, BitVec.add_assoc, List.append_assoc] at hhi
  exact hhi

/-- ENC_FRAME of a PDU that fits (R65). -/
theorem runs_encFrame (a : Byte) (p : List Byte) (hc : s.config.wf = true) (h1 : 1 ≤ p.length)
    (hroom : p.length + 3 ≤ s.config.maxAdu) :
    ∃ t, Runs (encFrame a p) (okResponses (p.length + 1) ++ [respWord .ok (crc16 (a :: p))]) s t ∧
      t.mode = .encDone ∧ t.rdptr = 0 ∧ t.Holds (aduEncode a p) := by
  obtain ⟨u, hopen, hm, hcu, hf⟩ := runs_encOpen a p hc hroom
  obtain ⟨t, hfin, ht⟩ := runs_encFinish hm (hcu ▸ hc) hf (by simpa using h1) (by rw [hcu]; simpa using hroom)
  exact ⟨t, hopen.append hfin, ht⟩

/-- READ_OUT after ENC_FRAME returns the encoded frame (R65, R72). -/
theorem runs_readOut_encoded (hm : s.mode = .encDone) (hr : s.rdptr = 0) (hf : s.Holds f) :
    ∃ t, Runs (readOut f.length) (byteResponses f) s t := by
  have hlen : f.length = s.len.toNat := hf.1
  have hend : readEnd s = s.len := by simp [readEnd, hm]
  obtain ⟨t, hrun, -⟩ := runs_readOut f.length (.inl hm) hf (by simp [hr, hend, hlen]) (by rw [hend, hlen])
  exact ⟨t, by simpa [hr] using hrun⟩

/-- ENC_FRAME of the empty PDU (R64, R65). -/
theorem runs_encFrame_nil (a : Byte) (hc : s.config.wf = true) :
    ∃ t, Runs (encFrame a []) (okResponses 1 ++ [respWord .encLength 0]) s t := by
  have h3 : 3 ≤ s.config.maxAdu := le_trans (by decide) ((wf_iff_range _).mp hc).1
  obtain ⟨u, hopen, hm, -, hf⟩ := runs_encOpen a [] hc h3
  have hlen : 1 = u.len.toNat := hf.1
  exact ⟨_, hopen.append (.single (encFinish_of_short hm (by omega)) rfl)⟩

/-- With the PDU filling the buffer up to the CRC, one more ENC_BYTE ends the frame (R63, R65). -/
theorem runs_encByte_overlong (a d : Byte) (hc : s.config.wf = true) (hfull : p.length + 3 = s.config.maxAdu) :
    ∃ t, Runs (Instr.encStart a :: p.map Instr.encByte ++ [Instr.encByte d])
        (okResponses (p.length + 1) ++ [respWord .encLength 0]) s t ∧ t.mode = .idle ∧ t.frame = .encLength := by
  obtain ⟨u, hopen, hm, hcu, hf⟩ := runs_encOpen a p hc hfull.le
  have hlen : p.length + 1 = u.len.toNat := hf.1
  exact ⟨_, hopen.append (.single (encByte_of_full hm (by rw [hcu]; omega)) rfl), rfl, rfl⟩

/-- ENC_FRAME up to the byte at index `k`, and what is left of it. -/
theorem encFrame_split (a : Byte) {k : Nat} (hk : k < p.length) :
    encFrame a p = (Instr.encStart a :: (p.take k).map Instr.encByte ++ [Instr.encByte p[k]]) ++
      ((p.drop (k + 1)).map Instr.encByte ++ [Instr.encFinish]) := by
  have hmap : p.map Instr.encByte =
      (p.take k).map Instr.encByte ++ Instr.encByte p[k] :: (p.drop (k + 1)).map Instr.encByte := by
    rw [← List.map_cons, ← List.map_append, ← List.drop_eq_getElem_cons, List.take_append_drop]
  rw [encFrame, hmap]
  simp only [List.cons_append, List.append_assoc, List.nil_append]

/-! ## The source's decode -/

theorem aduDecode_of_short (h : f.length < 4) : aduDecode f = .error .frameLength := if_pos h

theorem aduDecode_of_bad_crc (h4 : 4 ≤ f.length) (hc : crc16 (crcBody f) ≠ transmittedCrc f) :
    aduDecode f = .error .frameCrc := by
  rw [aduDecode, if_neg (show ¬ f.length < minAdu from Nat.not_lt.mpr h4), if_neg (mt crcAccepts_iff.mp hc)]

theorem aduDecode_of_good_crc (h4 : 4 ≤ f.length) (hc : crc16 (crcBody f) = transmittedCrc f) :
    aduDecode f = .ok (f.getD 0 0, (crcBody f).drop 1) := by
  rw [aduDecode, if_neg (show ¬ f.length < minAdu from Nat.not_lt.mpr h4), if_pos (crcAccepts_iff.mpr hc)]

/-- What decode answers says which of the three cases a frame is in (R70). -/
theorem aduDecode_cases (f : List Byte) :
    (f.length < 4 ∧ aduDecode f = .error .frameLength) ∨
    (4 ≤ f.length ∧ crc16 (crcBody f) ≠ transmittedCrc f ∧ aduDecode f = .error .frameCrc) ∨
    (4 ≤ f.length ∧ crc16 (crcBody f) = transmittedCrc f ∧
      aduDecode f = .ok (f.getD 0 0, (crcBody f).drop 1)) := by
  by_cases h4 : f.length < 4
  · exact .inl ⟨h4, aduDecode_of_short h4⟩
  · replace h4 := Nat.not_lt.mp h4
    by_cases hc : crc16 (crcBody f) = transmittedCrc f
    · exact .inr (.inr ⟨h4, hc, aduDecode_of_good_crc h4 hc⟩)
    · exact .inr (.inl ⟨h4, hc, aduDecode_of_bad_crc h4 hc⟩)

/-- The round trip (R70). -/
theorem aduDecode_aduEncode (a : Byte) (p : List Byte) (h1 : 1 ≤ p.length) :
    aduDecode (aduEncode a p) = .ok (a, p) := by
  have h4 : 4 ≤ (aduEncode a p).length := by rw [aduEncode_length]; omega
  rw [aduDecode_of_good_crc h4 (crcAccepts_iff.mp (crcAccepts_append_wireBytes _))]
  simp [aduEncode, crcBody, wireBytes]

/-- An encoded frame with one byte changed decodes to no PDU (R58, R70). -/
theorem aduDecode_corrupted {k : Nat} {b : Byte} (h1 : 1 ≤ p.length) (hk : k < (aduEncode a p).length)
    (hb : (aduEncode a p)[k]? ≠ some b) : aduDecode ((aduEncode a p).set k b) = .error .frameCrc := by
  have h4 : 4 ≤ (aduEncode a p).length := by rw [aduEncode_length]; omega
  have hbad := crcAccepts_set_eq_false (by omega) hk hb (crcAccepts_append_wireBytes _)
  exact aduDecode_of_bad_crc (by simpa using h4) (mt crcAccepts_iff.mpr (by simp [hbad]))

/-! ## DEC_FRAME -/

theorem decFrame_length (f : List Byte) : (decFrame f).length = f.length + 2 := by simp [decFrame]

/-- DEC_START and the DEC_BYTE commands hold a frame that fits. -/
theorem runs_decOpen (f : List Byte) (hc : s.config.wf = true) (hmax : f.length ≤ s.config.maxAdu) :
    ∃ t, Runs (Instr.decStart :: f.map Instr.decByte) (okResponses (f.length + 1)) s t ∧ t.mode = .decOpen ∧
      t.ovf = false ∧ t.config = s.config ∧ t.Holds f := by
  obtain ⟨t, hrun, hf, ht⟩ := runs_appends decByte_appends f
    (s := succeed 0 { s with len := 0, rdptr := 0, ovf := false, mode := .decOpen, frame := .noVerdict })
    rfl hc (f := []) ⟨rfl, Nat.zero_le _, nofun⟩ (show 0 + f.length + 0 ≤ s.config.maxAdu by omega)
  exact ⟨t, .cons (exec_decStart s) rfl hrun, by rw [ht]; rfl, by rw [ht]; rfl, by rw [ht]; rfl, hf⟩

/-- DEC_FRAME of a frame that decode refuses ends with decode's verdict (R70). -/
theorem runs_decFrame_of_error (hc : s.config.wf = true) (hmax : f.length ≤ s.config.maxAdu)
    (h : aduDecode f = .error code) :
    ∃ t, Runs (decFrame f) (okResponses (f.length + 1) ++ [respWord code 0]) s t ∧ t.mode = .idle ∧
      t.frame = code ∧ t.sticky = true := by
  obtain ⟨u, hopen, hm, ho, -, hf⟩ := runs_decOpen f hc hmax
  obtain ⟨h4, hd⟩ | ⟨h4, hbad, hd⟩ | ⟨-, -, hd⟩ := aduDecode_cases f
  · obtain rfl := Except.error.inj (hd.symm.trans h)
    exact ⟨_, hopen.append (.single (decFinish_of_bad_length hm (.inr (hf.1 ▸ h4))) rfl), rfl, rfl, rfl⟩
  · obtain rfl := Except.error.inj (hd.symm.trans h)
    exact ⟨_, hopen.append (.single (decFinish_of_bad_crc hm ho hf h4 hbad) rfl), rfl, rfl, rfl⟩
  · cases hd.symm.trans h

/-- DEC_FRAME of a frame that decode accepts opens the PDU for reading (R70). -/
theorem runs_decFrame_of_good_crc (hc : s.config.wf = true) (hmax : f.length ≤ s.config.maxAdu)
    (h4 : 4 ≤ f.length) (hgood : crc16 (crcBody f) = transmittedCrc f) :
    ∃ t, Runs (decFrame f)
        (okResponses (f.length + 1) ++ [respWord .ok (BitVec.ofNat 16 (f.length - 3))]) s t ∧
      t.mode = .decDone ∧ t.rdptr = 1 ∧ t.Holds f := by
  obtain ⟨u, hopen, hm, ho, -, hf⟩ := runs_decOpen f hc hmax
  have hlen : f.length = u.len.toNat := hf.1
  have hdata : u.len - 3 = BitVec.ofNat 16 (f.length - 3) := by rw [hlen]; bv_omega
  exact ⟨_, hopen.append (.single (decFinish_of_good_crc hm ho hf h4 hgood) (by rw [← hdata]; rfl)), rfl, rfl, hf⟩

/-- After an accepted frame RD_ADDR, RD_LEN and READ_OUT return its address, the length of its PDU and the PDU, and
one more RD_BYTE finds nothing (R70, R72 to R74). -/
theorem runs_readOut_decoded (hm : s.mode = .decDone) (hr : s.rdptr = 1) (hf : s.Holds f) (h4 : 4 ≤ f.length) :
    ∃ t, Runs ([Instr.rdAddr, .rdLen] ++ readOut (f.length - 3) ++ [Instr.rdByte])
        ([respWord .ok (zext16 (f.getD 0 0)), respWord .ok (BitVec.ofNat 16 (f.length - 3))] ++
          byteResponses ((crcBody f).drop 1) ++ [respWord .empty 0]) s t ∧ t.mode = .decDone := by
  have hlen : f.length = s.len.toNat := hf.1
  have hshown : shownLength s = BitVec.ofNat 16 (f.length - 3) := by
    rw [shownLength_of_decDone hm, hlen]; bv_omega
  have hend : (readEnd s).toNat = f.length - 2 := by simp only [readEnd, hm]; bv_omega
  have hbody : (f.drop 1).take (f.length - 3) = (crcBody f).drop 1 := by
    rw [crcBody, List.drop_take]
    rfl
  have haddr : exec .rdAddr s = .next (succeed (zext16 (f.getD 0 0)) s) :=
    rdAddr_of_holds hm hf (by simp [List.getElem?_eq_getElem (show 0 < f.length by omega)])
  obtain ⟨t, hrun, htr, ht⟩ := runs_readOut (f.length - 3)
    (s := succeed (shownLength s) (succeed (zext16 (f.getD 0 0)) s)) (.inr hm) hf
    (show s.rdptr.toNat + (f.length - 3) ≤ (readEnd s).toNat by rw [hend, hr]; simp; omega)
    (show (readEnd s).toNat ≤ f.length by omega)
  have hmt : t.mode = .decDone := by rw [ht]; exact hm
  have hexhausted : ¬ t.rdptr < readEnd t := by
    have hendt : readEnd t = readEnd s := by rw [ht]; rfl
    have hptr : t.rdptr.toNat = 1 + (f.length - 3) := by rw [htr, succeed_rdptr, succeed_rdptr, hr]; rfl
    rw [BitVec.lt_def, hendt, hend, hptr]
    omega
  have hreads : Runs [.rdAddr, .rdLen] [respWord .ok (zext16 (f.getD 0 0)), respWord .ok (shownLength s)] s
      (succeed (shownLength s) (succeed (zext16 (f.getD 0 0)) s)) :=
    .cons haddr rfl (.single (exec_rdLen _) rfl)
  rw [succeed_rdptr, succeed_rdptr, hr] at hrun
  rw [← hshown, ← hbody]
  exact ⟨_, (hreads.append hrun).append (.single (rdByte_of_exhausted (.inr hmt) hexhausted) rfl), hmt⟩

/-! ## DEC_FRAME past the buffer -/

/-- With the buffer full every DEC_BYTE is dropped, which OVF remembers (R67). -/
theorem runs_decByte_dropped (bs : List Byte) (hm : s.mode = .decOpen) (hfull : s.len.toNat = s.config.maxAdu) :
    ∃ t, Runs (bs.map Instr.decByte) (List.replicate bs.length (respWord .frameLength 0)) s t ∧
      t.mode = .decOpen ∧ t.ovf = (s.ovf || !bs.isEmpty) := by
  induction bs generalizing s with
  | nil => exact ⟨s, .nil s, hm, by simp⟩
  | cons b bs ih =>
    obtain ⟨t, hrun, hmt, ho⟩ := ih (s := afterError .frameLength { s with ovf := true }) hm hfull
    exact ⟨t, .cons (decByte_of_full hm hfull) rfl hrun, hmt, by rw [ho]; simp [afterError]⟩

/-- DEC_FRAME of a frame longer than the buffer answers FRAME_LENGTH from the first byte that has no room (R70). -/
theorem runs_decFrame_overlong (hc : s.config.wf = true) (hlong : s.config.maxAdu < f.length) :
    ∃ t, Runs (decFrame f)
        (okResponses (s.config.maxAdu + 1) ++
          List.replicate (f.length - s.config.maxAdu) (respWord .frameLength 0) ++ [respWord .frameLength 0]) s t ∧
      t.mode = .idle ∧ t.frame = .frameLength := by
  have htake : (f.take s.config.maxAdu).length = s.config.maxAdu := by simp; omega
  obtain ⟨u, hopen, hm, -, hcu, hf⟩ := runs_decOpen (f.take s.config.maxAdu) hc htake.le
  obtain ⟨v, hdrop, hmv, ho⟩ := runs_decByte_dropped (f.drop s.config.maxAdu) hm
    (by rw [← hf.1, htake, hcu])
  have hovf : v.ovf = true := by
    have hne : f.drop s.config.maxAdu ≠ [] := by simpa using hlong
    rw [ho]
    simp [hne]
  have hrun := (hopen.append hdrop).append (.single (decFinish_of_ovf hmv hovf) rfl)
  rw [htake, List.length_drop, List.cons_append, ← List.map_append, List.take_append_drop] at hrun
  exact ⟨_, hrun, rfl, rfl⟩

end Sys2Proof.Machine
end

section
/-! PROOFS. The obligations of 41_encoder.md, 42_decoder.md and 40_crc.md on the pseudo-commands run from any state
(R53, R65, R70). -/

namespace Sys2Proof.Machine

/-- Settles O58. -/
theorem crcBlockComputesCrc16 : Obligations.CrcBlockComputesCrc16 := by
  intro s bs rest hin
  obtain ⟨rs, t, hruns, ht⟩ := runs_crcBlock bs { s with inputs := rest }
  obtain ⟨hrun, -, hresp⟩ := hruns.run_of_inputs hin (n := bs.length + 2) (by simp [crcBlock])
  have hlen := hruns.length_eq
  refine ⟨t, hrun, ht, ?_, by simp [hresp]⟩
  rw [hresp, List.length_append, hlen]
  simp [crcBlock]
  omega

/-- Settles O55: the frame is built byte by byte behind the address, and the CRC behind it. -/
theorem encodeFrameComputesTheSourcesEncode : Obligations.EncodeFrameComputesTheSourcesEncode := by
  refine ⟨fun s a p rest hc h1 hroom hin => ?_, fun s a p rest hc h1 hroom hin => ?_, fun s a rest hc hin => ?_,
    fun s a p rest hc hlong hin => ?_⟩
  · obtain ⟨t, hruns, hm, -, hf⟩ := runs_encFrame (s := { s with inputs := rest }) a p hc h1 hroom
    obtain ⟨hrun, hrest, hresp⟩ := hruns.run_of_inputs hin (encFrame_length a p)
    exact ⟨t, hrun, hm, by rw [← hf.1, aduEncode_length], hf, hrest, by rw [hresp, List.append_assoc]⟩
  · obtain ⟨u, hframe, hm, hr, hf⟩ := runs_encFrame (s := { s with inputs := rest }) a p hc h1 hroom
    obtain ⟨t, hread⟩ := runs_readOut_encoded hm hr hf
    rw [aduEncode_length] at hread
    obtain ⟨hrun, -, hresp⟩ := (hframe.append hread).run_of_inputs hin
      (n := p.length + 2 + (p.length + 3)) (by simp [encFrame_length, readOut])
    exact ⟨t, hrun, by rw [hresp]; simp only [List.append_assoc]⟩
  · obtain ⟨t, hruns⟩ := runs_encFrame_nil (s := { s with inputs := rest }) a hc
    obtain ⟨hrun, -, hresp⟩ := hruns.run_of_inputs hin (encFrame_length a [])
    exact ⟨t, hrun, by rw [hresp, List.append_assoc]⟩
  · obtain ⟨h143, -⟩ := (wf_iff_range s.config).mp hc
    have htake : (p.take (s.config.maxAdu - 3)).length = s.config.maxAdu - 3 := by simp; omega
    rw [encFrame_split a hlong, issue_append, List.append_assoc] at hin
    obtain ⟨t, hruns, hm, hf⟩ := runs_encByte_overlong
      (s := { s with
        inputs := issue ((p.drop (s.config.maxAdu - 3 + 1)).map Instr.encByte ++ [Instr.encFinish]) ++ rest })
      a p[s.config.maxAdu - 3] hc (show (p.take (s.config.maxAdu - 3)).length + 3 = s.config.maxAdu by omega)
    rw [htake] at hruns
    obtain ⟨hrun, -, hresp⟩ := hruns.run_of_inputs hin (n := s.config.maxAdu - 3 + 2)
      (by rw [List.length_append, List.length_cons, List.length_map, htake]; rfl)
    exact ⟨t, hrun, hm, hf, by rw [hresp, List.append_assoc]⟩

/-- Settles O56. -/
theorem decodeFrameComputesTheSourcesDecode : Obligations.DecodeFrameComputesTheSourcesDecode := by
  refine ⟨fun s f rest code hc hmax hd hin => ?_,
    fun f => ⟨aduDecode_of_short, aduDecode_of_bad_crc, aduDecode_of_good_crc⟩,
    fun s f p a rest hc hmax hd hin => ?_, fun s f rest hc hlong hin => ?_⟩
  · obtain ⟨t, hruns, hm, hf, -⟩ := runs_decFrame_of_error (s := { s with inputs := rest }) hc hmax hd
    obtain ⟨hrun, -, hresp⟩ := hruns.run_of_inputs hin (decFrame_length f)
    exact ⟨t, hrun, hm, hf, by rw [hresp, List.append_assoc]⟩
  · obtain ⟨-, hd'⟩ | ⟨-, -, hd'⟩ | ⟨h4, hgood, hd'⟩ := aduDecode_cases f
    · cases hd'.symm.trans hd
    · cases hd'.symm.trans hd
    · obtain ⟨rfl, rfl⟩ : f.getD 0 0 = a ∧ (crcBody f).drop 1 = p := by simpa using hd'.symm.trans hd
      obtain ⟨u, hframe, hm, hr, hf⟩ :=
        runs_decFrame_of_good_crc (s := { s with inputs := rest }) hc hmax h4 hgood
      obtain ⟨t, hread, hmt⟩ := runs_readOut_decoded hm hr hf h4
      obtain ⟨hrun, hrest, hresp⟩ := (hframe.append hread).run_of_inputs (hin.trans (by simp))
        (n := f.length + 2 + 2 + (f.length - 3) + 1) (by simp [decFrame_length, readOut]; omega)
      exact ⟨t, hrun, hmt, hrest, by rw [hresp]; simp⟩
  · obtain ⟨t, hruns, hm, hf⟩ := runs_decFrame_overlong (s := { s with inputs := rest }) hc hlong
    obtain ⟨hrun, -, hresp⟩ := hruns.run_of_inputs hin (decFrame_length f)
    exact ⟨t, hrun, hm, hf, by rw [hresp]; simp only [List.append_assoc]⟩

/-- Settles O57. -/
theorem encodedFramesDecodeBackAndCorruptOnesDoNot : Obligations.EncodedFramesDecodeBackAndCorruptOnesDoNot := by
  refine ⟨aduDecode_aduEncode, fun s a p k b rest hc h1 hmax hk hb hin => ?_⟩
  have hlen : ((aduEncode a p).set k b).length = p.length + 3 := by rw [List.length_set, aduEncode_length]
  obtain ⟨t, hruns, hm, hf, hst⟩ := runs_decFrame_of_error (s := { s with inputs := rest }) hc
    (hlen.trans_le hmax) (aduDecode_corrupted h1 hk hb)
  rw [hlen] at hruns
  obtain ⟨hrun, -, hresp⟩ := hruns.run_of_inputs hin (n := p.length + 5) (by rw [decFrame_length, hlen])
  exact ⟨t, hrun, hm, hf, hst, by rw [hresp, List.append_assoc]⟩

end Sys2Proof.Machine
end

section
/-! PROOFS. The assembler's text: what is written for a command splits into its mnemonic and its operand, and each
reads back (30_encoding.md R52). -/

namespace Sys2Proof.Machine

variable {i : Instr} {cs line : List Char}

/-! ## Characters of words -/

/-- A character that neither separates words nor starts a comment. -/
def isWordChar (c : Char) : Bool := c != ' ' && c != '\t' && c != '\r' && c != ';'

theorem mnemonicText_isWordChar (i : Instr) : ∀ c ∈ mnemonicText i, isWordChar c = true := by
  apply List.all_eq_true.mp
  cases i <;> rfl

theorem mnemonicText_ne_nil (i : Instr) : mnemonicText i ≠ [] := by cases i <;> nofun

theorem hexDigit_isWordChar {n : Nat} (hn : n < 16) : isWordChar (hexDigit n) = true :=
  (by decide : ∀ n < 16, isWordChar (hexDigit n) = true) n hn

theorem digitValue_hexDigit {n : Nat} (hn : n < 16) : digitValue 16 (hexDigit n) = some n :=
  (by decide : ∀ n < 16, digitValue 16 (hexDigit n) = some n) n hn

/-! ## The operand -/

/-- The operand as it is written. -/
def operandText (b : Byte) : List Char := '0' :: 'x' :: hexByte b

theorem operandText_isWordChar (b : Byte) : ∀ c ∈ operandText b, isWordChar c = true := by
  have hb : b.toNat < 256 := b.isLt
  intro c hc
  obtain rfl | rfl | rfl | rfl : c = '0' ∨ c = 'x' ∨ c = hexDigit (b.toNat / 16) ∨
      c = hexDigit (b.toNat % 16) := by simpa [operandText, hexByte] using hc
  · rfl
  · rfl
  · exact hexDigit_isWordChar (by omega)
  · exact hexDigit_isWordChar (by omega)

/-- The two digits of a byte read back as it. -/
theorem parseByte_operandText (b : Byte) : parseByte (operandText b) = some b := by
  have hb : b.toNat < 256 := b.isLt
  have hdigits : digitsValue 16 (hexByte b) 0 = some b.toNat := by
    simp only [hexByte, digitsValue, digitValue_hexDigit (show b.toNat / 16 < 16 by omega),
      digitValue_hexDigit (show b.toNat % 16 < 16 by omega)]
    exact congrArg some (by omega)
  have hle : b.toNat ≤ 255 := by omega
  rw [hexByte] at hdigits
  simp [parseByte, operandText, hexByte, hdigits, hle]

/-! ## Splitting a line into words -/

theorem isWordChar_iff {c : Char} : isWordChar c = true ↔ ¬ (c = ' ' ∨ c = '\t' ∨ c = '\r') ∧ c ≠ ';' := by
  simp [isWordChar, and_assoc]

/-- The characters of a word join the word being read. -/
theorem wordsOf_append (h : ∀ c ∈ cs, isWordChar c = true) (ds w : List Char) :
    wordsOf (cs ++ ds) w = wordsOf ds (cs.reverse ++ w) := by
  induction cs generalizing w with
  | nil => rfl
  | cons c cs ih =>
    obtain ⟨hblank, -⟩ := isWordChar_iff.mp (h c (by simp))
    rw [List.cons_append, wordsOf, if_neg hblank, ih fun d hd => h d (by simp [hd])]
    simp

/-- A word at the end of the line. -/
theorem wordsOf_last (h : ∀ c ∈ cs, isWordChar c = true) (hne : cs ≠ []) : wordsOf cs [] = [cs] := by
  have := wordsOf_append h [] []
  simpa [wordsOf, hne] using this

/-- A word with a blank behind it. -/
theorem wordsOf_cons (h : ∀ c ∈ cs, isWordChar c = true) (hne : cs ≠ []) (ds : List Char) :
    wordsOf (cs ++ ' ' :: ds) [] = cs :: wordsOf ds [] := by
  rw [wordsOf_append h]
  simp [wordsOf, hne]

/-! ## The text of a command -/

/-- The words of a command's text. -/
def sourceWords (i : Instr) : List (List Char) :=
  match argFormOf i with
  | .z8 => [mnemonicText i]
  | .d8 | .a8 => [mnemonicText i, operandText (argOf i)]

theorem sourceText_of_z8 (h : argFormOf i = .z8) : sourceText i = mnemonicText i := by
  simp only [sourceText, h]

theorem sourceText_of_operand (h : argFormOf i ≠ .z8) :
    sourceText i = mnemonicText i ++ ' ' :: operandText (argOf i) := by
  cases hf : argFormOf i
  case z8 => exact (h hf).elim
  all_goals simp [sourceText, hf, operandText]

theorem sourceWords_of_z8 (h : argFormOf i = .z8) : sourceWords i = [mnemonicText i] := by
  simp only [sourceWords, h]

theorem sourceWords_of_operand (h : argFormOf i ≠ .z8) :
    sourceWords i = [mnemonicText i, operandText (argOf i)] := by
  cases hf : argFormOf i
  case z8 => exact (h hf).elim
  all_goals simp only [sourceWords, hf]

/-- The text splits into its words, whether a blank stands behind it or not. -/
theorem wordsOf_sourceText (i : Instr) :
    wordsOf (sourceText i) [] = sourceWords i ∧ wordsOf (sourceText i ++ [' ']) [] = sourceWords i := by
  have hm := mnemonicText_isWordChar i
  have hne := mnemonicText_ne_nil i
  by_cases h : argFormOf i = .z8
  · rw [sourceText_of_z8 h, sourceWords_of_z8 h]
    exact ⟨wordsOf_last hm hne, wordsOf_cons hm hne []⟩
  · have ho := operandText_isWordChar (argOf i)
    rw [sourceText_of_operand h, sourceWords_of_operand h, List.append_assoc, List.cons_append,
      wordsOf_cons hm hne, wordsOf_cons hm hne]
    exact ⟨by rw [wordsOf_last ho nofun], by rw [wordsOf_cons ho nofun]; rfl⟩

theorem sourceText_no_comment (i : Instr) : ∀ c ∈ sourceText i, (c != ';') = true := by
  have hword : ∀ c, isWordChar c = true → (c != ';') = true := fun c hc => by simpa using (isWordChar_iff.mp hc).2
  intro c hc
  by_cases h : argFormOf i = .z8
  · rw [sourceText_of_z8 h] at hc
    exact hword c (mnemonicText_isWordChar i c hc)
  · rw [sourceText_of_operand h, List.mem_append, List.mem_cons] at hc
    obtain hc | rfl | hc := hc
    · exact hword c (mnemonicText_isWordChar i c hc)
    · rfl
    · exact hword c (operandText_isWordChar _ c hc)

/-- A line whose words are those of a command's text is the command. -/
theorem parseLine_of_words (h : wordsOf (line.takeWhile (· != ';')) [] = sourceWords i) :
    parseLine line = some (.command i) := by
  rw [parseLine, h]
  cases i
  case crcByte | encStart | encByte | decByte =>
    simp only [sourceWords, argFormOf, argOf, parseByte_operandText]
    rfl
  all_goals rfl

theorem parseLine_sourceText (i : Instr) : parseLine (sourceText i) = some (.command i) := by
  apply parseLine_of_words
  have htake : (sourceText i).takeWhile (· != ';') = sourceText i := by
    simpa using sourceText_no_comment i
  rw [htake]
  exact (wordsOf_sourceText i).1

/-- A comment after a command is not read. -/
theorem parseLine_sourceText_comment (i : Instr) (comment : List Char) :
    parseLine (sourceText i ++ [' ', ';'] ++ comment) = some (.command i) := by
  apply parseLine_of_words
  rw [List.append_assoc, List.takeWhile_append_of_pos (sourceText_no_comment i)]
  exact (wordsOf_sourceText i).2

/-- The assembled word is the two fields side by side (R45, R52). -/
theorem assembledWord_eq (op operand : Byte) : assembledWord op operand = cmdWord op operand := by
  have hop : op.setWidth 16 <<< 8 = cmdWord op 0 := by
    apply BitVec.eq_of_toNat_eq
    rw [cmdWord, BitVec.toNat_append]
    simp only [BitVec.toNat_shiftLeft, BitVec.toNat_setWidth, BitVec.ofNat_eq_ofNat, BitVec.toNat_ofNat,
      Nat.zero_mod, Nat.or_zero]
    omega
  rw [assembledWord, hop, ← cmdWord_eq_or]

end Sys2Proof.Machine
end

section
/-! PROOFS. The obligations of 30_encoding.md and 95_test_vectors.md on the text and the words of commands (R48,
R52). -/

namespace Sys2Proof.Machine

/-- Settles O60. -/
theorem assemblerTextReadsBack : Obligations.AssemblerTextReadsBack :=
  ⟨parseLine_sourceText, parseLine_sourceText_comment, fun _ => rfl,
    fun i => (assembledWord_eq (opcodeOf i) (argOf i)).symm, fun _ => argOf_of_z8, by decide, by decide, by decide,
    by decide, by decide⟩

/-- Settles O5, by decoding each of the fourteen words. -/
theorem wordsOfTheSpecDecode : Obligations.WordsOfTheSpecDecode := by
  unfold Obligations.WordsOfTheSpecDecode
  decide

end Sys2Proof.Machine
end
